-- ==== Sys2Proof/Word.lean ====
section
/-! DEFINITION. The bit widths of the block's data (10_state.md R31, R33; 00_scope.md R7). -/

namespace Sys2Proof

/-- One byte: a sensor register, an op code, an argument, a transport error code (`XERR_W = 8`). -/
abbrev Byte := BitVec 8

/-- A register address on the transport port, `RA_W = 7` (20_memory.md R85). -/
abbrev RegAddr := BitVec 7

/-- A 16-bit word: a REQ word or a channel reading (00_scope.md R15). -/
abbrev Word := BitVec 16

/-- `rsp_data`, 64 bits (30_encoding.md R130). -/
abbrev Wide := BitVec 64

/-- The settle timer's width, `TMR_W = 32` (00_scope.md R7). -/
abbrev Ticks := BitVec 32

/-- `zext_64` of 00_scope.md R10. -/
abbrev zext64 {n : Nat} (v : BitVec n) : Wide := v.setWidth 64

end Sys2Proof
end

