-- ==== Sys2Proof/Machine/Memory.lean ====
section
/-! DEFINITION. The sensor's register space as plain data (20_memory.md R85, R86): 128 addresses of one byte. -/

namespace Sys2Proof.Machine

/-- Address and byte pairs, addresses strictly rising. An address that is not listed has no known byte (log entry 6). -/
abbrev Memory := List Host.Cell

/-- The byte known at an address; `none` where nothing is known. -/
def Memory.read : Memory → Nat → Option Byte
  | [], _ => none
  | (k, b) :: m, a => if k = a then some b else Memory.read m a

/-- Store one byte, keeping the addresses in rising order. -/
def Memory.write : Memory → Nat → Byte → Memory
  | [], a, b => [(a, b)]
  | (k, c) :: m, a, b =>
    if a < k then (a, b) :: (k, c) :: m
    else if a = k then (a, b) :: m
    else (k, c) :: Memory.write m a b

/-- Forget the byte of an address. -/
def Memory.erase : Memory → Nat → Memory
  | [], _ => []
  | (k, c) :: m, a => if k = a then Memory.erase m a else (k, c) :: Memory.erase m a

/-- Every listed address is above `n` (when there is one) and rises; all are in the 7-bit space (20_memory.md R85). -/
def Memory.risingFrom : Option Nat → Memory → Bool
  | _, [] => true
  | lower, (k, _) :: m =>
    (match lower with
      | none => true
      | some n => decide (n < k)) &&
    decide (k < 128) && Memory.risingFrom (some k) m

/-- The canonical form: addresses strictly rising, all below 128. An unlisted address reads as no byte, so no entry
can equal it. -/
def Memory.wf (m : Memory) : Bool := Memory.risingFrom none m

end Sys2Proof.Machine
end

