-- ==== Sys2Proof/Config.lean ====
section
/-! DEFINITION. What is fixed or left open outside the block's registers: the build-time parameters (00_scope.md R7),
the input pins of one clock edge (10_state.md R31), and the free values. -/

namespace Sys2Proof

/-- The build-time parameters of 00_scope.md R7. The addresses are 7 bits wide, so R7's constraint that every `A_*` is in
0..127 holds by type. `ID_ACCEPT`, `V_OFF`, `TMR_W`, `RA_W` and `XERR_W` are fixed and stand in the code. -/
structure Params where
  /-- `F_CLK_HZ`, the clock frequency; R7 leaves it OPEN. -/
  fClkHz : Nat
  /-- `T_PON_MS`, the first settling delay. -/
  tPonMs : Nat
  /-- `T_AEN_MS`, the second settling delay. -/
  tAenMs : Nat
  aEnable : RegAddr
  aAtime : RegAddr
  aControl : RegAddr
  aId : RegAddr
  aCdata : RegAddr
  aRdata : RegAddr
  aGdata : RegAddr
  aBdata : RegAddr
  vPon : Byte
  vAen : Byte
deriving DecidableEq, Repr

/-- The input pins of the block at one rising edge of `clk` (10_state.md R30, R31). -/
structure EdgeIn where
  rst : Bool
  reqValid : Bool
  reqWord : Word
  smpValid : Bool
  lcValid : Bool
  lcOp : BitVec 1
  xtReady : Bool
  xrValid : Bool
  xrOk : Bool
  xrRdata : Byte
  xrErr : Byte
deriving DecidableEq, Repr, Inhabited

/-- The document's lifecycle states (10_state.md R37). -/
inductive Lifecycle where
  | uninitialized | identified | powered | active | failed
deriving DecidableEq, Repr, Inhabited

/-- FREE VALUE (log entry 2). The input pins at edge number `n` when the state's script says nothing about them: an
unconstrained draw of the host, the adapter and the reset source (20_memory.md R97, 60_exceptions.md R335). -/
opaque Config.freeInput : Nat → EdgeIn

/-- FREE VALUE (log entry 8). The lifecycle output in an unused FSM code, for which 10_state.md R37 gives no value. -/
opaque Config.freeLifecycle : BitVec 4 → Lifecycle

end Sys2Proof
end

