-- ==== Sys2Proof/Machine/Params.lean ====
section
/-! DEFINITION. The parameters' defaults, the tick counts they give and the constraints of a legal set (00_scope.md R7). -/

namespace Sys2Proof.Machine

/-- `V_OFF`, the teardown value, fixed (00_scope.md R7). -/
def vOff : Byte := 0x00

/-- `ID_ACCEPT = {0x44, 0x4D}`, fixed (00_scope.md R7, 20_memory.md R94). -/
def idAccepted (b : Byte) : Bool := b == 0x44 || b == 0x4D

/-- `ceil(ms * F_CLK_HZ / 1000)`, a delay in clock cycles (00_scope.md R7). -/
def ticksOfMs (ms fClkHz : Nat) : Nat := (ms * fClkHz + 999) / 1000

/-- `PON_TICKS` (00_scope.md R7). -/
def ponTicks (p : Params) : Nat := ticksOfMs p.tPonMs p.fClkHz

/-- `AEN_TICKS` (00_scope.md R7). -/
def aenTicks (p : Params) : Nat := ticksOfMs p.tAenMs p.fClkHz

/-- A mask with exactly one bit set (00_scope.md R7). -/
def singleBit (v : Byte) : Bool := v != 0 && (v &&& (v - 1)) == 0

/-- The constraints a legal parameter set meets (00_scope.md R7; log entry 5). -/
def legalParams (p : Params) : Bool :=
  decide (1 ≤ p.fClkHz) &&
  singleBit p.vPon && singleBit p.vAen && (p.vPon &&& p.vAen) == 0 &&
  decide (200 ≤ p.tAenMs) && decide (p.tAenMs ≤ 700) && decide (10 ≤ p.tPonMs) &&
  decide (1 ≤ ponTicks p) && decide (1 ≤ aenTicks p) &&
  decide (aenTicks p ≤ 2 ^ 32 - 1) && decide (ponTicks p ≤ 2 ^ 32 - 1)

/-- The default values of 00_scope.md R7 for a clock of `fClkHz` hertz (log entry 4: the addresses and masks are the
spec's own from general knowledge). -/
def defaultParams (fClkHz : Nat) : Params where
  fClkHz := fClkHz
  tPonMs := 10
  tAenMs := 700
  aEnable := 0x00
  aAtime := 0x01
  aControl := 0x0F
  aId := 0x12
  aCdata := 0x14
  aRdata := 0x16
  aGdata := 0x18
  aBdata := 0x1A
  vPon := 0x01
  vAen := 0x02

/-- DESIGN CHOICE (log entry 3): the clock frequency of the reset state; 00_scope.md R7 leaves `F_CLK_HZ` OPEN. -/
def resetClockHz : Nat := 1000

end Sys2Proof.Machine
end

