-- ==== Sys2Proof/Syntax.lean ====
section
/-! DEFINITION. The command set (30_encoding.md R120 to R126, R132): one constructor per row of spec/opcode_table.json,
and the three command formats a command arrives in. -/

namespace Sys2Proof

/-- The command ports (10_state.md R31). -/
inductive Port where
  | req | smp | lc
deriving DecidableEq, Repr

/-- One command. The channel reads keep their `arg`: it is ignored (R123) but latched in `carg` (44_request.md R270). -/
inductive Instr where
  /-- READC, REQ op 0x01 (44_request.md R272). -/
  | readc (arg : Byte)
  /-- READR, REQ op 0x02 (R273). -/
  | readr (arg : Byte)
  /-- READG, REQ op 0x03 (R274). -/
  | readg (arg : Byte)
  /-- READB, REQ op 0x04 (R275). -/
  | readb (arg : Byte)
  /-- SETGAIN, REQ op 0x05 (43_config.md R252). -/
  | setgain (arg : Byte)
  /-- SETATIME, REQ op 0x06 (43_config.md R253). -/
  | setatime (arg : Byte)
  /-- INVALID_OP, any other REQ op (44_request.md R276). -/
  | invalidOp (op arg : Byte)
  /-- SAMPLE, a transfer on SMP (42_sample.md R231). -/
  | sample
  /-- ATTACH, `lc_op = 0` (41_lifecycle.md R181). -/
  | attach
  /-- DETACH, `lc_op = 1` (41_lifecycle.md R201). -/
  | detach
deriving DecidableEq, Repr

/-- A transfer on a command port with its payload (30_encoding.md R120): 16 bits on REQ, none on SMP, one bit on LC. -/
inductive Payload where
  | req (w : Word)
  | smp
  | lc (op : BitVec 1)
deriving DecidableEq, Repr

/-- The port a payload arrives on. -/
def Payload.port : Payload → Port
  | .req _ => .req
  | .smp => .smp
  | .lc _ => .lc

/-- The port a command belongs to (30_encoding.md R132). -/
def Instr.port : Instr → Port
  | .readc _ | .readr _ | .readg _ | .readb _ | .setgain _ | .setatime _ | .invalidOp _ _ => .req
  | .sample => .smp
  | .attach | .detach => .lc

end Sys2Proof
end

