-- ==== Sys2Proof/Machine/State.lean ====
section
/-! DEFINITION. The block's registers (10_state.md R33), the sensor's register space, the build-time parameters and the
input pins to come, as plain data; the state after reset; the reasons a step can stop. -/

namespace Sys2Proof.Machine

/-- The FSM state `st` (10_state.md R34): the twelve named codes and the four unused ones (R57), sixteen in all. -/
inductive Fsm where
  | idleU | idRd | ponWr | ponWait | aenWr | aenWait | idleA | rdLo | rdHi | cfgWr | tdWr | idleF
  | unusedC | unusedD | unusedE | unusedF
deriving DecidableEq, Repr

/-- Power State (10_state.md R38). 0b10 is never written and has no value here (log entry 9). -/
inductive Power where
  | off | powered | active
deriving DecidableEq, Repr

/-- Failure reason (10_state.md R39). -/
inductive FailReason where
  | none | idMismatch | idXt | ponXt | aenXt
deriving DecidableEq, Repr

/-- Response status (30_encoding.md R127). -/
inductive Status where
  | ok | transport | unrecognized | invalid | notReady
deriving DecidableEq, Repr

/-- Channel index (10_state.md R33, `ch`). -/
inductive Channel where
  | clear | red | green | blue
deriving DecidableEq, Repr

/-- The word buffer `buf[0..3]` (10_state.md R42), one entry per channel. -/
structure WordBuf where
  clear : Word
  red : Word
  green : Word
  blue : Word
deriving DecidableEq, Repr

/-- Everything the spec gives the machine. The fields from `st` to `rspData` are the registers of 10_state.md R33, each
under its name; `cfg` is 00_scope.md R7; `sensor` is the register space behind the transport (20_memory.md R85);
`script` and `edge` are the model's own (log entry 2). -/
structure State where
  /-- The build-time parameters; no step changes them (00_scope.md R8). -/
  cfg : Params
  st : Fsm
  /-- 1 = the current state's transaction has been accepted and its response is awaited. -/
  xq : Bool
  pwr : Power
  fail : FailReason
  fxerr : Byte
  chipId : Byte
  tmr : Ticks
  cport : Port
  cop : Byte
  carg : Byte
  ch : Channel
  lo : Byte
  buf : WordBuf
  rspValid : Bool
  rspPort : Port
  rspStatus : Status
  rspXerr : Byte
  rspData : Wide
  /-- The sensor's register bytes known from the block's own completed writes (log entry 6). -/
  sensor : Memory
  /-- The input pins at the coming edges, the next first; past its end they are free draws (log entry 2). -/
  script : List EdgeIn
  /-- The number of edges passed, which the free draw is applied to (log entry 2). -/
  edge : Nat
deriving DecidableEq, Repr

/-- The machine right after reset: every register at the value of 10_state.md R33; the parameters at R7's defaults
(log entries 3, 4); nothing known of the sensor (70_reset_and_hazards.md R342). -/
def State.reset : State where
  cfg := defaultParams resetClockHz
  st := .idleU
  xq := false
  pwr := .off
  fail := .none
  fxerr := 0x00
  chipId := 0x00
  tmr := 0
  cport := .req
  cop := 0x00
  carg := 0x00
  ch := .clear
  lo := 0x00
  buf := ⟨0, 0, 0, 0⟩
  rspValid := false
  rspPort := .req
  rspStatus := .ok
  rspXerr := 0x00
  rspData := 0
  sensor := []
  script := []
  edge := 0

/-- The block raises no fault: every error of 60_exceptions.md R300 ends a command with a response and the block goes on.
No step answers a fault, so the type has no value. -/
inductive Fault where
deriving DecidableEq, Repr

/-- Why a step gives no next state. -/
inductive Refusal where
  /-- Raised by an arm of `exec` for a command without a meaning; every command has one, so no step raises it. Safe. -/
  | notModelled (mnemonic : String)
  /-- Raised by `step` on a parameter set that breaks a constraint of 00_scope.md R7: "A model refuses a parameter set
  that breaks a constraint." Safe: nothing is claimed of such a build. -/
  | illegalParameters
deriving DecidableEq, Repr

end Sys2Proof.Machine
end

