-- ==== Sys2Proof/Machine/Flags.lean ====
section
/-! DEFINITION. The codes the block drives on its outputs, the classes of FSM states, the lifecycle function and the result
layout: everything the spec computes as a status (10_state.md R34 to R40; 30_encoding.md R127 to R130). -/

namespace Sys2Proof.Machine

/-- The 4-bit code of `st` (10_state.md R34). -/
def Fsm.code : Fsm → BitVec 4
  | .idleU => 0x0
  | .idRd => 0x1
  | .ponWr => 0x2
  | .ponWait => 0x3
  | .aenWr => 0x4
  | .aenWait => 0x5
  | .idleA => 0x6
  | .rdLo => 0x7
  | .rdHi => 0x8
  | .cfgWr => 0x9
  | .tdWr => 0xA
  | .idleF => 0xB
  | .unusedC => 0xC
  | .unusedD => 0xD
  | .unusedE => 0xE
  | .unusedF => 0xF

/-- IDLE of 10_state.md R35. -/
def Fsm.isIdle : Fsm → Bool
  | .idleU | .idleA | .idleF => true
  | .idRd | .ponWr | .ponWait | .aenWr | .aenWait | .rdLo | .rdHi | .cfgWr | .tdWr => false
  | .unusedC | .unusedD | .unusedE | .unusedF => false

/-- XST of 10_state.md R35: the transaction states. -/
def Fsm.isXfer : Fsm → Bool
  | .idRd | .ponWr | .aenWr | .rdLo | .rdHi | .cfgWr | .tdWr => true
  | .idleU | .idleA | .idleF | .ponWait | .aenWait => false
  | .unusedC | .unusedD | .unusedE | .unusedF => false

/-- WAITST of 10_state.md R35. -/
def Fsm.isWait : Fsm → Bool
  | .ponWait | .aenWait => true
  | .idleU | .idleA | .idleF | .idRd | .ponWr | .aenWr | .rdLo | .rdHi | .cfgWr | .tdWr => false
  | .unusedC | .unusedD | .unusedE | .unusedF => false

/-- The codes 0xC to 0xF (10_state.md R57). -/
def Fsm.isUnused : Fsm → Bool
  | .unusedC | .unusedD | .unusedE | .unusedF => true
  | .idleU | .idleA | .idleF | .ponWait | .aenWait => false
  | .idRd | .ponWr | .aenWr | .rdLo | .rdHi | .cfgWr | .tdWr => false

/-- `pwr` as {AEN written, PON written} (10_state.md R38). -/
def Power.code : Power → BitVec 2
  | .off => 0b00
  | .powered => 0b01
  | .active => 0b11

/-- `fail` (10_state.md R39). -/
def FailReason.code : FailReason → BitVec 3
  | .none => 0
  | .idMismatch => 1
  | .idXt => 2
  | .ponXt => 3
  | .aenXt => 4

/-- `rsp_status` (30_encoding.md R127). -/
def Status.code : Status → BitVec 3
  | .ok => 0
  | .transport => 1
  | .unrecognized => 2
  | .invalid => 3
  | .notReady => 4

/-- `rsp_port` and `cport` (30_encoding.md R128). -/
def portCode : Port → BitVec 2
  | .req => 0
  | .smp => 1
  | .lc => 2

/-- `ch` (10_state.md R33). -/
def Channel.code : Channel → BitVec 2
  | .clear => 0
  | .red => 1
  | .green => 2
  | .blue => 3

/-- `st_lc` (10_state.md R37). -/
def lifecycleCode : Lifecycle → BitVec 3
  | .uninitialized => 0
  | .identified => 1
  | .powered => 2
  | .active => 3
  | .failed => 4

/-- `lcState(st, fail)` of 10_state.md R37; the unused codes have no value there, so theirs is free (log entry 8). -/
def lcState (st : Fsm) (fail : FailReason) : Lifecycle :=
  match st with
  | .idleU | .idRd => .uninitialized
  | .ponWr => .identified
  | .ponWait | .aenWr | .aenWait => .powered
  | .idleA | .rdLo | .rdHi | .cfgWr => .active
  | .tdWr => if fail ≠ .none then .failed else .active
  | .idleF => .failed
  | .unusedC => Config.freeLifecycle 0xC
  | .unusedD => Config.freeLifecycle 0xD
  | .unusedE => Config.freeLifecycle 0xE
  | .unusedF => Config.freeLifecycle 0xF

/-- Whether a device handle exists: the block while it is not UNINITIALIZED (00_scope.md R15). -/
def handleLive (s : State) : Bool := lcState s.st s.fail != .uninitialized

/-- The lifecycle state of a block in `s`. -/
def lifecycleOf (s : State) : Lifecycle := lcState s.st s.fail

/-- The result of SAMPLE, `{blue, green, red, clear}` (30_encoding.md R130). -/
def sampleData (clear red green blue : Word) : Wide := (blue ++ green ++ red ++ clear : BitVec 64)

/-- Byte `k` of a result, `rsp_data[8k+7:8k]` (30_encoding.md R130). -/
def resultByte (d : Wide) (k : Nat) : Byte := (d >>> (8 * k)).setWidth 8

/-- The first `n` bytes of a result, serialised low byte first (30_encoding.md R130). -/
def resultBytes (d : Wide) (n : Nat) : List Byte := (List.range n).map (resultByte d)

end Sys2Proof.Machine
end

