-- ==== Sys2Proof/Machine/Operands.lean ====
section
/-! DEFINITION. Every operand form: the channel index and its register pair, the configuration address, the transaction each
FSM state performs, the adapter's answer, and the word buffer (20_memory.md R81 to R95; 40_word_reader.md R160). -/

namespace Sys2Proof.Machine

/-- One transport transaction (00_scope.md R12): always one byte (20_memory.md R86). -/
inductive Xact where
  | read (a : RegAddr)
  | write (a : RegAddr) (v : Byte)
deriving DecidableEq, Repr

/-- The adapter's answer to a transaction (10_state.md R53). `Ok` of a write carries no byte: its byte is never used. -/
inductive XResult where
  | ok (b : Byte)
  | err (e : Byte)
deriving DecidableEq, Repr

/-- `r = (xr_ok = 1) ? Ok(xr_rdata) : Err(xr_err)` (10_state.md R53). -/
def resultOf (e : EdgeIn) : XResult := if e.xrOk then .ok e.xrRdata else .err e.xrErr

/-- `chanAddr(c)` (20_memory.md R95). -/
def chanAddr (p : Params) : Channel → RegAddr
  | .clear => p.aCdata
  | .red => p.aRdata
  | .green => p.aGdata
  | .blue => p.aBdata

/-- The high byte's address, `(a + 1) mod 128` (20_memory.md R88). -/
def highAddr (a : RegAddr) : RegAddr := a + 1

/-- `cfgAddr = (cop = 0x05) ? A_CONTROL : A_ATIME` (43_config.md R250). -/
def cfgAddr (p : Params) (cop : Byte) : RegAddr := if cop = 0x05 then p.aControl else p.aAtime

/-- The transaction the current FSM state performs (41_lifecycle.md R182, R184, R186, R202; 40_word_reader.md R161, R162;
43_config.md R250). -/
def xactOf (s : State) : Option Xact :=
  match s.st with
  | .idRd => some (.read s.cfg.aId)
  | .ponWr => some (.write s.cfg.aEnable s.cfg.vPon)
  | .aenWr => some (.write s.cfg.aEnable (s.cfg.vPon ||| s.cfg.vAen))
  | .rdLo => some (.read (chanAddr s.cfg s.ch))
  | .rdHi => some (.read (highAddr (chanAddr s.cfg s.ch)))
  | .cfgWr => some (.write (cfgAddr s.cfg s.cop) s.carg)
  | .tdWr => some (.write s.cfg.aEnable vOff)
  | .idleU | .idleA | .idleF | .ponWait | .aenWait => none
  | .unusedC | .unusedD | .unusedE | .unusedF => none

/-- The command byte the adapter sends on the bus, `0x80 | a` (20_memory.md R84). -/
def frame (a : RegAddr) : Byte := 0x80 ||| a.setWidth 8

/-- `{high, low} = (high << 8) | low` (40_word_reader.md R160). -/
def wordOf (high low : Byte) : Word := high ++ low

/-- `ch + 1` of 40_word_reader.md R163, which is taken only below blue. -/
def Channel.next : Channel → Channel
  | .clear => .red
  | .red => .green
  | .green => .blue
  | .blue => .clear

/-- `buf[c]` (10_state.md R42). -/
def WordBuf.get (b : WordBuf) : Channel → Word
  | .clear => b.clear
  | .red => b.red
  | .green => b.green
  | .blue => b.blue

/-- `buf[c] <- w` (10_state.md R42). -/
def WordBuf.set (b : WordBuf) (c : Channel) (w : Word) : WordBuf :=
  match c with
  | .clear => { b with clear := w }
  | .red => { b with red := w }
  | .green => { b with green := w }
  | .blue => { b with blue := w }

end Sys2Proof.Machine
end

