-- ==== Sys2Proof/Machine/Ops.lean ====
section
/-! DEFINITION. The operations the meanings are built from: the input pins of the edge, the response register, raising an
error, releasing the handle, the memory effect of a write, and the reset edge. -/

namespace Sys2Proof.Machine

/-- The input pins at the coming edge: the script's next record, or a free draw past its end (log entry 2). -/
def State.input (s : State) : EdgeIn :=
  match s.script with
  | e :: _ => e
  | [] => Config.freeInput s.edge

/-- The edge has passed: its pins are used up. -/
def State.advance (s : State) : State := { s with script := s.script.tail, edge := s.edge + 1 }

/-- The input pins `k` edges ahead, wherever the block then is. -/
def State.inputAt (s : State) (k : Nat) : EdgeIn :=
  match s.script[k]? with
  | some e => e
  | none => Config.freeInput (s.edge + k)

/-- The response register at an edge without a response: "otherwise `rsp_valid <- 0` and the other `rsp_*` registers keep
their values" (10_state.md R55). -/
def quiet (s : State) : State := { s with rspValid := false }

/-- `respond(p, s, e, d)` (10_state.md R55, 30_encoding.md R131). -/
def respond (p : Port) (status : Status) (xerr : Byte) (data : Wide) (s : State) : State :=
  { s with rspValid := true, rspPort := p, rspStatus := status, rspXerr := xerr, rspData := data }

/-- `raise TransportError(e)` in a channel read, a sample or a configuration write: the command's response with the
adapter's code and no data, and the block idle again in lifecycle ACTIVE (40_word_reader.md R161, R162;
43_config.md R250; 60_exceptions.md R301). -/
def raiseTransport (p : Port) (e : Byte) (s : State) : State :=
  respond p .transport e 0 { s with st := .idleA }

/-- An ATTACH that fails: the reason is recorded and the block enters FAILED (41_lifecycle.md R182, R183, R185, R187). -/
def enterFailed (reason : FailReason) (s : State) : State := { s with fail := reason, st := .idleF }

/-- `raise TransportError(e)` in ATTACH: FAILED with the reason, the code kept in `fxerr`, the identity byte in the
response (41_lifecycle.md R183, R185, R187). -/
def failAttach (reason : FailReason) (e : Byte) (s : State) : State :=
  respond .lc .transport e (zext64 s.chipId) (enterFailed reason { s with fxerr := e })

/-- `release()` (41_lifecycle.md R201, R204). -/
def release (s : State) : State := { s with fail := .none, fxerr := 0x00, chipId := 0x00, st := .idleU }

/-- What the acceptance of a transaction does to the known register bytes: from here to its completion, what a written
register holds is unknown (93_implementation_defined.md I3; log entry 6). -/
def sensorStart (x : Xact) (m : Memory) : Memory :=
  match x with
  | .read _ => m
  | .write a _ => Memory.erase m a.toNat

/-- What the completion of a transaction does to the known register bytes: "a successful write sets the byte"
(20_memory.md R97); after a failed one the register's byte stays unknown (I4; log entry 6). -/
def sensorFinish (x : Xact) (r : XResult) (m : Memory) : Memory :=
  match x, r with
  | .write a v, .ok _ => Memory.write m a.toNat v
  | .write _ _, .err _ => m
  | .read _, _ => m

/-- The registers at an edge with `rst = 1` (70_reset_and_hazards.md R340); the sensor is not touched (R342), the
parameters are build-time constants (00_scope.md R8), and the pins to come are the environment's. -/
def resetEdge (s : State) : State :=
  { State.reset with cfg := s.cfg, sensor := s.sensor, script := s.script, edge := s.edge }

/-- Apply a function to the next state of an outcome. -/
def mapNext (f : State → State) : Host.Outcome State Fault Refusal → Host.Outcome State Fault Refusal
  | .next s => .next (f s)
  | .fault r => .fault r
  | .refused r => .refused r

end Sys2Proof.Machine
end

