-- ==== Sys2Proof/Machine/Lifecycle.lean ====
section
/-! DEFINITION. The lifecycle controller's states: identity read, the two enable writes and their settling waits, teardown
(41_lifecycle.md R182 to R190, R203). Each function is given the state whose response register is already quiet. -/

namespace Sys2Proof.Machine

/-- `done_ID_RD(r)` (41_lifecycle.md R182, R183). -/
def doneIdRd (r : XResult) (s : State) : State :=
  match r with
  | .ok b =>
    if idAccepted b then { s with chipId := b, st := .ponWr }
    else respond .lc .unrecognized 0x00 (zext64 b) (enterFailed .idMismatch { s with chipId := b })
  | .err e => failAttach .idXt e s

/-- `done_PON_WR(r)` (41_lifecycle.md R184, R185). -/
def donePonWr (r : XResult) (s : State) : State :=
  match r with
  | .ok _ => { s with pwr := .powered, tmr := BitVec.ofNat 32 (ponTicks s.cfg), st := .ponWait }
  | .err e => failAttach .ponXt e s

/-- `done_AEN_WR(r)` (41_lifecycle.md R186, R187). -/
def doneAenWr (r : XResult) (s : State) : State :=
  match r with
  | .ok _ => { s with pwr := .active, tmr := BitVec.ofNat 32 (aenTicks s.cfg), st := .aenWait }
  | .err e => failAttach .aenXt e s

/-- The end of the second delay (41_lifecycle.md R189). -/
def attachDone (s : State) : State := respond .lc .ok 0x00 (zext64 s.chipId) { s with st := .idleA }

/-- The wait arm (41_lifecycle.md R190); `expired` is what the wait's end does. -/
def waitEdge (expired : State → State) (s : State) : State :=
  if s.tmr = 0 then expired s else { s with tmr := s.tmr - 1 }

/-- `done_TD_WR(r)` (41_lifecycle.md R203): "reported but never block resource release". -/
def doneTdWr (r : XResult) (s : State) : State :=
  match r with
  | .ok _ => respond .lc .ok 0x00 0 (release { s with pwr := .off })
  | .err e => respond .lc .transport e 0 (release { s with pwr := .off })

end Sys2Proof.Machine
end

