-- ==== Sys2Proof/Machine/WordReader.lean ====
section
/-! DEFINITION. The Word Reader's two states and the continuation after a word (40_word_reader.md R160 to R163), with the
endings of a channel read (44_request.md R277) and of a sample (42_sample.md R232). Each function is given the state
whose response register is already quiet. -/

namespace Sys2Proof.Machine

/-- `channelDone(w)` (44_request.md R277). -/
def channelDone (w : Word) (s : State) : State := respond .req .ok 0x00 (zext64 w) { s with st := .idleA }

/-- `sampleDone(w)` (42_sample.md R232). -/
def sampleDone (w : Word) (s : State) : State :=
  respond .smp .ok 0x00 (sampleData s.buf.clear s.buf.red s.buf.green w) { s with st := .idleA }

/-- `continue(w)` (40_word_reader.md R163). A command on LC never reaches it (log entry 9). -/
def continueWord (w : Word) (s : State) : State :=
  match s.cport with
  | .smp =>
    if s.ch = .blue then sampleDone w s
    else { s with ch := s.ch.next, st := .rdLo }
  | .req | .lc => channelDone w s

/-- `done_RD_LO(r)` (40_word_reader.md R161). -/
def doneRdLo (r : XResult) (s : State) : State :=
  match r with
  | .ok b => { s with lo := b, st := .rdHi }
  | .err e => raiseTransport s.cport e s

/-- `done_RD_HI(r)` (40_word_reader.md R162): `buf[ch] <- w`, and the word goes on to its command. -/
def doneRdHi (r : XResult) (s : State) : State :=
  match r with
  | .ok b => continueWord (wordOf b s.lo) { s with buf := s.buf.set s.ch (wordOf b s.lo) }
  | .err e => raiseTransport s.cport e s

end Sys2Proof.Machine
end

