-- ==== Sys2Proof/Machine/Edge.lean ====
section
/-! DEFINITION. One clock edge with `rst = 0` outside the idle states: the transaction arm (10_state.md R53), the wait arm
(41_lifecycle.md R190) and the unused codes (10_state.md R57); the idle arm without a command (R51). -/

namespace Sys2Proof.Machine

/-- `done_CFG_WR(r)` (43_config.md R250). -/
def doneCfgWr (r : XResult) (s : State) : State :=
  match r with
  | .ok _ => respond .req .ok 0x00 0 { s with st := .idleA }
  | .err e => raiseTransport .req e s

/-- `done_<st>(r)`: the completion rule of the state's family (10_state.md R53). -/
def completeXact (r : XResult) (s : State) : State :=
  match s.st with
  | .idRd => doneIdRd r s
  | .ponWr => donePonWr r s
  | .aenWr => doneAenWr r s
  | .rdLo => doneRdLo r s
  | .rdHi => doneRdHi r s
  | .cfgWr => doneCfgWr r s
  | .tdWr => doneTdWr r s
  | .idleU | .idleA | .idleF | .ponWait | .aenWait => s
  | .unusedC | .unusedD | .unusedE | .unusedF => s

/-- The accept edge of a transaction (10_state.md R53, 20_memory.md R80). -/
def startXact (x : Xact) (s : State) : State := { s with xq := true, sensor := sensorStart x s.sensor }

/-- The completion edge of a transaction (10_state.md R53): `xq <- 0`, then the state's completion rule. -/
def finishXact (x : Xact) (r : XResult) (s : State) : State :=
  completeXact r { s with xq := false, sensor := sensorFinish x r s.sensor }

/-- The transaction arm (10_state.md R53): offer and accept while `xq = 0` (the response pins are ignored there), wait for
the response while `xq = 1`, without limit (R54). -/
def xferEdge (x : Xact) (s : State) : State :=
  if s.xq then
    if s.input.xrValid then finishXact x (resultOf s.input) (quiet s) else quiet s
  else
    if s.input.xtReady then startXact x (quiet s) else quiet s

/-- One edge with `rst = 0` in a state outside IDLE: the command in progress goes on, every offered command is held
(10_state.md R50, R51). -/
def busyEdge (s : State) : State :=
  match xactOf s with
  | some x => xferEdge x s
  | none =>
    match s.st with
    | .ponWait => waitEdge (fun t => { t with st := .aenWr }) (quiet s)
    | .aenWait => waitEdge attachDone (quiet s)
    | .unusedC | .unusedD | .unusedE | .unusedF => { quiet s with st := .idleU }
    | .idleU | .idleA | .idleF => quiet s
    | .idRd | .ponWr | .aenWr | .rdLo | .rdHi | .cfgWr | .tdWr => quiet s

/-- The edge at which a command is offered and is the first in the order of 10_state.md R51: in an idle state it is taken,
its accept rule runs; outside IDLE the port holds it and the edge is that of the command in progress. -/
def commandEdge (taken : State → State) (s : State) : Host.Outcome State Fault Refusal :=
  .next (if s.st.isIdle then taken s else busyEdge s)

/-- The edge at which no command is offered: "If no `*_valid` is 1, the registers other than the response registers keep
their values" (10_state.md R51); outside IDLE the command in progress goes on. -/
def noCommandEdge (s : State) : State := if s.st.isIdle then quiet s else busyEdge s

end Sys2Proof.Machine
end

