-- ==== Sys2Proof/Machine/AttachDetach.lean ====
section
/-! DEFINITION. The lifecycle commands: the meanings of ATTACH (41_lifecycle.md R180, R181) and DETACH (R200, R201, R204). The
states they run through are in Lifecycle.lean. -/

namespace Sys2Proof.Machine

/-- ATTACH accept (41_lifecycle.md R180). -/
def acceptAttach (s : State) : State :=
  if s.st = .idleU then { quiet s with cport := .lc, st := .idRd }
  else respond .lc .invalid 0x00 (zext64 s.chipId) s

/-- DETACH accept (41_lifecycle.md R200), with the release without a write of R204. -/
def acceptDetach (s : State) : State :=
  if s.st = .idleU then respond .lc .invalid 0x00 0 s
  else if s.st = .idleF ∧ s.pwr = .off then respond .lc .ok 0x00 0 (release s)
  else { quiet s with cport := .lc, st := .tdWr }

/-- ATTACH (41_lifecycle.md R181). -/
def execAttach (s : State) : Host.Outcome State Fault Refusal := commandEdge acceptAttach s

/-- DETACH (41_lifecycle.md R201). -/
def execDetach (s : State) : Host.Outcome State Fault Refusal := commandEdge acceptDetach s

end Sys2Proof.Machine
end

