-- ==== Sys2Proof/Machine/Request.lean ====
section
/-! DEFINITION. The Request Interface: the accept rule of the REQ port and the meanings of READC, READR, READG, READB and
INVALID_OP (44_request.md R270 to R277). The rest of a channel read, from its accept edge to its response, is the Word
Reader's arms in WordReader.lean. -/

namespace Sys2Proof.Machine

/-- The state check and the latches of 44_request.md R270 and R271, for a valid op code. -/
def acceptReq (op arg : Byte) (start : State → State) (s : State) : State :=
  if s.st = .idleA then start { quiet s with cport := .req, cop := op, carg := arg }
  else respond .req .notReady 0x00 0 s

/-- A channel read begins: `ch <- c ; st <- RD_LO` (44_request.md R270). -/
def acceptRead (c : Channel) (op arg : Byte) : State → State :=
  acceptReq op arg (fun s => { s with ch := c, st := .rdLo })

/-- READC (44_request.md R272). -/
def execReadc (arg : Byte) (s : State) : Host.Outcome State Fault Refusal :=
  commandEdge (acceptRead .clear 0x01 arg) s

/-- READR (44_request.md R273). -/
def execReadr (arg : Byte) (s : State) : Host.Outcome State Fault Refusal :=
  commandEdge (acceptRead .red 0x02 arg) s

/-- READG (44_request.md R274). -/
def execReadg (arg : Byte) (s : State) : Host.Outcome State Fault Refusal :=
  commandEdge (acceptRead .green 0x03 arg) s

/-- READB (44_request.md R275). -/
def execReadb (arg : Byte) (s : State) : Host.Outcome State Fault Refusal :=
  commandEdge (acceptRead .blue 0x04 arg) s

/-- INVALID_OP (44_request.md R276): answered INVALID in every idle state. Neither `op` nor `arg` has any effect, so a term
whose `op` is in fact valid, which no decoding gives, is answered the same way (log entry 13). -/
def execInvalidOp (_op _arg : Byte) (s : State) : Host.Outcome State Fault Refusal :=
  commandEdge (respond .req .invalid 0x00 0) s

end Sys2Proof.Machine
end

