-- ==== Sys2Proof/Machine/Configuration.lean ====
section
/-! DEFINITION. The Configuration Port: the meanings of SETGAIN and SETATIME (43_config.md R250 to R253). The write itself is
the state CFG_WR in Edge.lean. -/

namespace Sys2Proof.Machine

/-- A configuration write begins: `st <- CFG_WR` (44_request.md R270). -/
def acceptConfig (op arg : Byte) : State → State := acceptReq op arg (fun s => { s with st := .cfgWr })

/-- SETGAIN (43_config.md R252). -/
def execSetgain (arg : Byte) (s : State) : Host.Outcome State Fault Refusal :=
  commandEdge (acceptConfig 0x05 arg) s

/-- SETATIME (43_config.md R253). -/
def execSetatime (arg : Byte) (s : State) : Host.Outcome State Fault Refusal :=
  commandEdge (acceptConfig 0x06 arg) s

end Sys2Proof.Machine
end

