-- ==== Sys2Proof/Machine/Sample.lean ====
section
/-! DEFINITION. The Sample Acquirer: the meaning of SAMPLE (42_sample.md R230 to R232). The four words are read by the Word
Reader's arms in WordReader.lean. -/

namespace Sys2Proof.Machine

/-- SAMPLE accept (42_sample.md R230). -/
def acceptSample (s : State) : State :=
  if s.st = .idleA then { quiet s with cport := .smp, ch := .clear, st := .rdLo }
  else respond .smp .notReady 0x00 0 s

/-- SAMPLE (42_sample.md R231). -/
def execSample (s : State) : Host.Outcome State Fault Refusal := commandEdge acceptSample s

end Sys2Proof.Machine
end

