-- ==== Sys2Proof/Machine/Dispatch.lean ====
section
/-! DEFINITION. One arm per command: the clock edge at which that command is offered. -/

namespace Sys2Proof.Machine

def exec (i : Instr) (s : State) : Host.Outcome State Fault Refusal :=
  match i with
  | .readc arg => Sys2Proof.Machine.execReadc arg s
  | .readr arg => Sys2Proof.Machine.execReadr arg s
  | .readg arg => Sys2Proof.Machine.execReadg arg s
  | .readb arg => Sys2Proof.Machine.execReadb arg s
  | .setgain arg => Sys2Proof.Machine.execSetgain arg s
  | .setatime arg => Sys2Proof.Machine.execSetatime arg s
  | .invalidOp op arg => Sys2Proof.Machine.execInvalidOp op arg s
  | .sample => Sys2Proof.Machine.execSample s
  | .attach => Sys2Proof.Machine.execAttach s
  | .detach => Sys2Proof.Machine.execDetach s

end Sys2Proof.Machine
end

