-- ==== Sys2Proof/WellFormed.lean ====
section
/-! DEFINITION. Which terms of the command syntax are commands: the one check the formats leave to make. -/

namespace Sys2Proof

/-- The six op codes that name a command (30_encoding.md R122). -/
def validOp (op : Byte) : Bool :=
  op == 0x01 || op == 0x02 || op == 0x03 || op == 0x04 || op == 0x05 || op == 0x06

/-- INVALID_OP stands for the other 250 op codes only (30_encoding.md R134); every other term is well formed. -/
def Instr.wellFormed : Instr → Bool
  | .invalidOp op _ => !validOp op
  | .readc _ | .readr _ | .readg _ | .readb _ | .setgain _ | .setatime _ => true
  | .sample | .attach | .detach => true

end Sys2Proof
end

