-- ==== Sys2Proof/Decode.lean ====
section
/-! DEFINITION. Decoding, total on every payload of every port (30_encoding.md R126), the encoder written from the same
tables, and the numbering of spec/opcode_table.json. -/

namespace Sys2Proof

/-- `op = req_word[15:8]` (30_encoding.md R121). -/
def reqOp (w : Word) : Byte := (w >>> 8).setWidth 8

/-- `arg = req_word[7:0]` (30_encoding.md R121). -/
def reqArg (w : Word) : Byte := w.setWidth 8

/-- `decodeReq` of 30_encoding.md R126. -/
def decodeReq (w : Word) : Instr :=
  if reqOp w = 0x01 then .readc (reqArg w)
  else if reqOp w = 0x02 then .readr (reqArg w)
  else if reqOp w = 0x03 then .readg (reqArg w)
  else if reqOp w = 0x04 then .readb (reqArg w)
  else if reqOp w = 0x05 then .setgain (reqArg w)
  else if reqOp w = 0x06 then .setatime (reqArg w)
  else .invalidOp (reqOp w) (reqArg w)

/-- `decodeLc` of 30_encoding.md R126. -/
def decodeLc (b : BitVec 1) : Instr := if b = 0 then .attach else .detach

/-- `decodeSmp` of 30_encoding.md R126. -/
def decodeSmp : Instr := .sample

/-- The decode function, total on every payload (30_encoding.md R126). -/
def decode : Payload → Instr
  | .req w => decodeReq w
  | .smp => decodeSmp
  | .lc b => decodeLc b

/-- Why a numbered table word is no payload of any port. -/
inductive DecodeError where
  /-- More than 16 bits: no command format is that long (30_encoding.md R120). -/
  | noFormatOfThisLength (nbits : Nat)
  /-- The number does not fit in the stated number of bits. -/
  | wordWiderThanItsLength (nbits w : Nat)
deriving DecidableEq, Repr

/-- The payload a numbered table word stands for (log entry 10). "the length of a command is fixed by its port"
(30_encoding.md R120): no bits is the SMP transfer, up to one byte is the LC bit (bit 0; the table's mask is 0x1),
up to two bytes is a REQ word. -/
def payloadOfTableWord (nbits w : Nat) : Except DecodeError Payload :=
  if 16 < nbits then .error (.noFormatOfThisLength nbits)
  else if 2 ^ nbits ≤ w then .error (.wordWiderThanItsLength nbits w)
  else if nbits = 0 then .ok .smp
  else if nbits ≤ 8 then .ok (.lc (BitVec.ofNat 1 w))
  else .ok (.req (BitVec.ofNat 16 w))

/-- The instruction of a word numbered as spec/opcode_table.json numbers it. -/
def decodeTableWord (nbits w : Nat) : Option Instr :=
  match payloadOfTableWord nbits w with
  | .ok p => some (decode p)
  | .error _ => none

/-- A REQ word `{op, arg}` (30_encoding.md R121). -/
def reqWordOf (op arg : Byte) : Word := op ++ arg

/-- The transfer that carries a command (30_encoding.md R122, R124, R125). -/
def encode : Instr → Payload
  | .readc arg => .req (reqWordOf 0x01 arg)
  | .readr arg => .req (reqWordOf 0x02 arg)
  | .readg arg => .req (reqWordOf 0x03 arg)
  | .readb arg => .req (reqWordOf 0x04 arg)
  | .setgain arg => .req (reqWordOf 0x05 arg)
  | .setatime arg => .req (reqWordOf 0x06 arg)
  | .invalidOp op arg => .req (reqWordOf op arg)
  | .sample => .smp
  | .attach => .lc 0
  | .detach => .lc 1

/-! ### The spec's assembler syntax (30_encoding.md R133) -/

/-- One command line of the syntax, before its range check; a number is any natural number. -/
inductive AsmLine where
  | readc | readr | readg | readb
  | setgain (imm : Nat)
  | setatime (imm : Nat)
  | sample | attach | detach
  /-- `.req <imm16>`, any raw REQ word. -/
  | rawReq (imm : Nat)
deriving DecidableEq, Repr

/-- The transfer an assembler line stands for; an `<imm8>` outside 0..255 or an `<imm16>` outside 0..65535 is refused. -/
def assemble : AsmLine → Option Payload
  | .readc => some (.req (reqWordOf 0x01 0))
  | .readr => some (.req (reqWordOf 0x02 0))
  | .readg => some (.req (reqWordOf 0x03 0))
  | .readb => some (.req (reqWordOf 0x04 0))
  | .setgain n => if n < 256 then some (.req (reqWordOf 0x05 (BitVec.ofNat 8 n))) else none
  | .setatime n => if n < 256 then some (.req (reqWordOf 0x06 (BitVec.ofNat 8 n))) else none
  | .sample => some .smp
  | .attach => some (.lc 0)
  | .detach => some (.lc 1)
  | .rawReq n => if n < 65536 then some (.req (BitVec.ofNat 16 n)) else none

/-- A digit of a numeral in base `base`. -/
def digitValue (base : Nat) (c : Char) : Option Nat :=
  let v :=
    if '0' ≤ c ∧ c ≤ '9' then c.toNat - '0'.toNat
    else if 'a' ≤ c ∧ c ≤ 'f' then c.toNat - 'a'.toNat + 10
    else if 'A' ≤ c ∧ c ≤ 'F' then c.toNat - 'A'.toNat + 10
    else base
  if v < base then some v else none

/-- A nonempty run of digits, most significant first, continuing from `acc`. -/
def parseDigits (base acc : Nat) : List Char → Option Nat
  | [] => none
  | [c] => (digitValue base c).map (acc * base + ·)
  | c :: cs =>
    match digitValue base c with
    | some d => parseDigits base (acc * base + d) cs
    | none => none

/-- A numeral, decimal or `0x..` (30_encoding.md R133). -/
def parseNumeral : List Char → Option Nat
  | '0' :: 'x' :: cs => parseDigits 16 0 cs
  | cs => parseDigits 10 0 cs

/-- The words of a line, cut at blanks; a `;` starts a comment (30_encoding.md R133). `cur` is the word being read. -/
def lineWords (cur : List Char) : List Char → List (List Char)
  | [] => if cur = [] then [] else [cur]
  | c :: cs =>
    if c = ';' then (if cur = [] then [] else [cur])
    else if c = ' ' ∨ c = '\t' then (if cur = [] then lineWords [] cs else cur :: lineWords [] cs)
    else lineWords (cur ++ [c]) cs

/-- The line of a word list; no word list of another form is a command. -/
def parseWords : List (List Char) → Option AsmLine
  | [m] =>
    if m = "READC".toList then some .readc
    else if m = "READR".toList then some .readr
    else if m = "READG".toList then some .readg
    else if m = "READB".toList then some .readb
    else if m = "SAMPLE".toList then some .sample
    else if m = "ATTACH".toList then some .attach
    else if m = "DETACH".toList then some .detach
    else none
  | [m, n] =>
    match parseNumeral n with
    | none => none
    | some k =>
      if m = "SETGAIN".toList then some (.setgain k)
      else if m = "SETATIME".toList then some (.setatime k)
      else if m = ".req".toList then some (.rawReq k)
      else none
  | _ => none

/-- Assembling one line of text (log entry 16). -/
def assembleText (line : String) : Option Payload := (parseWords (lineWords [] line.toList)).bind assemble

end Sys2Proof
end

