-- ==== Sys2Proof/Machine/Ports.lean ====
section
/-! DEFINITION. The port signals: the command taken at an edge, the outputs of the cycle before it, the transaction accepted
and the answer consumed at it (10_state.md R31, R51, R53; 20_memory.md R80, R81; 70_reset_and_hazards.md R340), and the
pins a host and an adapter drive. -/

namespace Sys2Proof.Machine

/-- The payload of the first of REQ, SMP, LC whose `*_valid` is 1 (10_state.md R51). -/
def offeredPayload (e : EdgeIn) : Option Payload :=
  if e.reqValid then some (.req e.reqWord)
  else if e.smpValid then some .smp
  else if e.lcValid then some (.lc e.lcOp)
  else none

/-- The command offered first in the order of 10_state.md R51. -/
def offeredCommand (e : EdgeIn) : Option Instr := (offeredPayload e).map decode

/-- The output pins of 10_state.md R31, with their codes. -/
structure Outputs where
  reqReady : Bool
  smpReady : Bool
  lcReady : Bool
  rspValid : Bool
  rspPort : BitVec 2
  rspStatus : BitVec 3
  rspXerr : Byte
  rspData : Wide
  xtValid : Bool
  xtWe : Bool
  xtAddr : RegAddr
  xtWdata : Byte
  stLc : BitVec 3
  stPwr : BitVec 2
  stFail : BitVec 3
  stChipId : Byte
  stBusy : Bool
deriving DecidableEq, Repr

/-- The transaction offered on XT in the cycle before the edge (20_memory.md R81): none while `rst = 1`. -/
def offeredXact (s : State) : Option Xact := if s.input.rst || s.xq then none else xactOf s

/-- `req_ready` (10_state.md R51, 70_reset_and_hazards.md R340). -/
def reqReady (s : State) : Bool := !s.input.rst && s.st.isIdle

/-- `smp_ready` (10_state.md R51, 70_reset_and_hazards.md R340). -/
def smpReady (s : State) : Bool := !s.input.rst && s.st.isIdle && !s.input.reqValid

/-- `lc_ready` (10_state.md R51, 70_reset_and_hazards.md R340). -/
def lcReady (s : State) : Bool := !s.input.rst && s.st.isIdle && !s.input.reqValid && !s.input.smpValid

/-- `xt_we` of a transaction (20_memory.md R81). -/
def Xact.isWrite : Xact → Bool
  | .read _ => false
  | .write _ _ => true

/-- `xt_addr` of a transaction (20_memory.md R81). -/
def Xact.addr : Xact → RegAddr
  | .read a => a
  | .write a _ => a

/-- `xt_wdata` of a transaction (20_memory.md R81): 0x00 for a read. -/
def Xact.data : Xact → Byte
  | .read _ => 0x00
  | .write _ v => v

/-- All outputs in the cycle before the edge (10_state.md R31, R50). -/
def outputs (s : State) : Outputs where
  reqReady := reqReady s
  smpReady := smpReady s
  lcReady := lcReady s
  rspValid := s.rspValid
  rspPort := portCode s.rspPort
  rspStatus := s.rspStatus.code
  rspXerr := s.rspXerr
  rspData := s.rspData
  xtValid := (offeredXact s).isSome
  xtWe := ((offeredXact s).map Xact.isWrite).getD false
  xtAddr := ((offeredXact s).map Xact.addr).getD 0
  xtWdata := ((offeredXact s).map Xact.data).getD 0x00
  stLc := lifecycleCode (lcState s.st s.fail)
  stPwr := s.pwr.code
  stFail := s.fail.code
  stChipId := s.chipId
  stBusy := !s.st.isIdle

/-- The transaction accepted at the coming edge: offered, and `xt_ready = 1` (20_memory.md R80). -/
def acceptedXact (s : State) : Option Xact := if s.input.xtReady then offeredXact s else none

/-- A transaction is outstanding: accepted and not yet completed (10_state.md R43, 20_memory.md R82). -/
def outstanding (s : State) : Bool := s.st.isXfer && s.xq

/-- The answer consumed at the coming edge: a completion edge (20_memory.md R80). -/
def consumedAnswer (s : State) : Option XResult :=
  if !s.input.rst && outstanding s && s.input.xrValid then some (resultOf s.input) else none

/-! ### Pins a host and an adapter drive at one edge -/

/-- No pin driven: no command, no answer, the adapter not ready. -/
def idlePins : EdgeIn where
  rst := false
  reqValid := false
  reqWord := 0
  smpValid := false
  lcValid := false
  lcOp := 0
  xtReady := false
  xrValid := false
  xrOk := false
  xrRdata := 0
  xrErr := 0

/-- A host offers one command on its port. -/
def offerPins : Payload → EdgeIn
  | .req w => { idlePins with reqValid := true, reqWord := w }
  | .smp => { idlePins with smpValid := true }
  | .lc b => { idlePins with lcValid := true, lcOp := b }

/-- The adapter takes the offered transaction. -/
def readyPins : EdgeIn := { idlePins with xtReady := true }

/-- The adapter completes the outstanding transaction. -/
def answerPins : XResult → EdgeIn
  | .ok b => { idlePins with xrValid := true, xrOk := true, xrRdata := b }
  | .err e => { idlePins with xrValid := true, xrOk := false, xrErr := e }

/-- One transaction served by the adapter: `hold` edges before it is ready, then the accept edge, then `late` edges
without an answer, then the answer. Its latency is `L = late + 1` edges after the accept edge. -/
def serve (hold late : Nat) (r : XResult) : List EdgeIn :=
  List.replicate hold idlePins ++ readyPins :: (List.replicate late idlePins ++ [answerPins r])

/-- The number of edges `serve` takes. -/
def serveEdges (hold late : Nat) : Nat := hold + late + 2

/-- When an adapter serves the two reads of one word. -/
structure WordTiming where
  hold1 : Nat
  late1 : Nat
  hold2 : Nat
  late2 : Nat
deriving DecidableEq, Repr

/-- The two reads of one word served with success (40_word_reader.md R160). -/
def serveWord (t : WordTiming) (low high : Byte) : List EdgeIn :=
  serve t.hold1 t.late1 (.ok low) ++ serve t.hold2 t.late2 (.ok high)

/-- The number of edges `serveWord` takes. -/
def WordTiming.edges (t : WordTiming) : Nat := serveEdges t.hold1 t.late1 + serveEdges t.hold2 t.late2

end Sys2Proof.Machine
end

