-- ==== Sys2Proof/Machine/Step.lean ====
section
/-! DEFINITION. One rising edge of `clk` (10_state.md R50): the reset, the command offered first, or the command in progress. -/

namespace Sys2Proof.Machine

/-- One clock edge. A parameter set that breaks 00_scope.md R7 is refused; `rst = 1` overrides everything else
(60_exceptions.md R304c, 70_reset_and_hazards.md R340); otherwise the edge is `exec` of the command offered first
(10_state.md R51), or the edge without a command. Then the edge's pins are used up. -/
def step (s : State) : Host.Outcome State Fault Refusal :=
  if legalParams s.cfg = false then .refused .illegalParameters
  else if s.input.rst then .next (resetEdge s).advance
  else
    match offeredCommand s.input with
    | some i => mapNext State.advance (exec i s)
    | none => .next (noCommandEdge s).advance

/-- The state with an instruction's word placed where the next step takes its command from: the host offers that payload,
alone, at the coming edge (log entry 11). A word that is no payload of any port leaves the state as it is. -/
def State.withFetchWord (s : State) (nbits w : Nat) : State :=
  match payloadOfTableWord nbits w with
  | .ok p => { s with script := offerPins p :: s.script.tail }
  | .error _ => s

end Sys2Proof.Machine
end

