-- ==== Sys2Proof/Machine/Sensor.lean ====
section
/-! DEFINITION. The reference sensor of 20_memory.md R97, an environment for test vectors only: no step of the block uses it. -/

namespace Sys2Proof.Machine

/-- The reference sensor before any write: ENABLE 0x00, ATIME 0xFF, CONTROL 0x00 (20_memory.md R97). PRESUMED: the spec
itself marks the values as general knowledge (log entry 15). -/
def refSensor (p : Params) : Memory :=
  Memory.write (Memory.write (Memory.write [] p.aEnable.toNat 0x00) p.aAtime.toNat 0xFF) p.aControl.toNat 0x00

/-- The reference sensor's answer: a failure with the test's code, the byte held, or `Ok` of a write. There is none for a
read of an address whose byte the test has not fixed. -/
def refAnswer (m : Memory) (fails : Option Byte) (x : Xact) : Option XResult :=
  match fails, x with
  | some e, _ => some (.err e)
  | none, .read a => (Memory.read m a.toNat).map .ok
  | none, .write _ _ => some (.ok 0)

/-- The reference sensor after a transaction: "a successful write sets the byte", a failed one leaves it (20_memory.md R97,
95_test_vectors.md section 0). -/
def refAfter (m : Memory) (fails : Option Byte) (x : Xact) : Memory :=
  match fails, x with
  | none, .write a v => Memory.write m a.toNat v
  | none, .read _ => m
  | some _, _ => m

/-- The pins of an adapter in front of the reference sensor that accepts at once and answers at the next edge (the adapter
of 95_test_vectors.md part 4), beside the host's pins. -/
def refPins (m : Memory) (fails : Option Byte) (host : EdgeIn) (s : State) : EdgeIn :=
  let answer := if outstanding s then (xactOf s).bind (refAnswer m fails) else none
  match answer with
  | some (.ok b) => { host with xtReady := true, xrValid := true, xrOk := true, xrRdata := b }
  | some (.err e) => { host with xtReady := true, xrValid := true, xrOk := false, xrErr := e }
  | none => { host with xtReady := true, xrValid := false }

end Sys2Proof.Machine
end

