-- ==== Sys2Proof/Machine/Trace.lean ====
section
/-! DEFINITION. What a run of edges does at the transport port: the transactions accepted and the answers consumed, in order
(20_memory.md R80, R82). -/

namespace Sys2Proof.Machine

/-- The transactions accepted in the next `n` edges, in order. -/
def issued : Nat → State → List Xact
  | 0, _ => []
  | n + 1, s =>
    (acceptedXact s).toList ++
      (match step s with
      | .next t => issued n t
      | .fault _ => []
      | .refused _ => [])

/-- The adapter's answers consumed in the next `n` edges, in order. -/
def consumed : Nat → State → List XResult
  | 0, _ => []
  | n + 1, s =>
    (consumedAnswer s).toList ++
      (match step s with
      | .next t => consumed n t
      | .fault _ => []
      | .refused _ => [])

/-- The state after `n` edges, if none of them was refused. -/
def stateAfter : Nat → State → Option State
  | 0, s => some s
  | n + 1, s =>
    match step s with
    | .next t => stateAfter n t
    | .fault _ => none
    | .refused _ => none

end Sys2Proof.Machine
end

