-- ==== Sys2Proof/Machine/Transaction.lean ====
section
/-! DEFINITION. The commands at transaction level (00_scope.md R14, 10_state.md R56): each command's pseudocode, line by line,
executed whole from its accept edge to its `respond`, taking the adapter's answer of each transaction as an oracle draw.
The cycles and the FSM state are forgotten here; the machine's `step` keeps them. -/

namespace Sys2Proof.Machine

/-- The adapter's answers to a command's transactions, in order. -/
abbrev Answers := List XResult

/-- What a whole command leaves: the state at its response, and the transactions it issued, in order. -/
structure TxEnd where
  state : State
  issued : List Xact
deriving DecidableEq, Repr

/-- The command has responded. It must have used exactly the answers given. -/
def ended (s : State) : Answers → Option TxEnd
  | [] => some ⟨s, []⟩
  | _ :: _ => none

/-- One `MemRead` or `MemWrite` (00_scope.md R12), then the rest of the command. With no answer left the command has not
responded (10_state.md R54). -/
def memOp (x : Xact) (s : State) (rest : XResult → State → Answers → Option TxEnd) : Answers → Option TxEnd
  | [] => none
  | r :: rs =>
    (rest r { s with sensor := sensorFinish x r (sensorStart x s.sensor) } rs).map
      (fun e => { e with issued := x :: e.issued })

/-- `WordRead(c)` (40_word_reader.md R160); `rest` is what follows the `return w`. -/
def wordRead (c : Channel) (s : State) (rest : Word → State → Answers → Option TxEnd) : Answers → Option TxEnd :=
  memOp (.read (chanAddr s.cfg c)) { s with ch := c } fun r1 s1 rs1 =>
    match r1 with
    | .err e => ended (raiseTransport s1.cport e s1) rs1
    | .ok low =>
      memOp (.read (highAddr (chanAddr s.cfg c))) { s1 with lo := low } (fun r2 s2 rs2 =>
        match r2 with
        | .err e => ended (raiseTransport s2.cport e s2) rs2
        | .ok high => rest (wordOf high low) { s2 with buf := s2.buf.set c (wordOf high low) } rs2) rs1

/-- READC, READR, READG, READB (44_request.md R272 to R275), one pseudocode with the channel and the op code. -/
def txChannelRead (c : Channel) (op arg : Byte) (s : State) : Answers → Option TxEnd :=
  if s.st = .idleA then
    wordRead c { s with cport := .req, cop := op, carg := arg } fun w s1 =>
      ended (respond .req .ok 0x00 (zext64 w) s1)
  else ended (respond .req .notReady 0x00 0 s)

/-- SETGAIN and SETATIME (43_config.md R252, R253): one write of `arg` to `a`. -/
def txConfigWrite (a : RegAddr) (op arg : Byte) (s : State) : Answers → Option TxEnd :=
  if s.st = .idleA then
    memOp (.write a arg) { s with cport := .req, cop := op, carg := arg } fun r s1 =>
      match r with
      | .err e => ended (raiseTransport .req e s1)
      | .ok _ => ended (respond .req .ok 0x00 0 s1)
  else ended (respond .req .notReady 0x00 0 s)

/-- SAMPLE (42_sample.md R231). -/
def txSample (s : State) : Answers → Option TxEnd :=
  if s.st = .idleA then
    wordRead .clear { s with cport := .smp } fun w0 s0 =>
      wordRead .red s0 fun w1 s1 =>
        wordRead .green s1 fun w2 s2 =>
          wordRead .blue s2 fun w3 s3 =>
            ended (respond .smp .ok 0x00 (sampleData w0 w1 w2 w3) s3)
  else ended (respond .smp .notReady 0x00 0 s)

/-- `wait(n)` (00_scope.md R13, 41_lifecycle.md R190): the count is loaded and runs down to 0. -/
def txWait (_n : Nat) (s : State) : State := { s with tmr := 0 }

/-- ATTACH (41_lifecycle.md R181). -/
def txAttach (s : State) : Answers → Option TxEnd :=
  if s.st = .idleU then
    memOp (.read s.cfg.aId) { s with cport := .lc } fun r s1 rs1 =>
      match r with
      | .err e => ended (failAttach .idXt e s1) rs1
      | .ok b =>
        if b ≠ 0x44 ∧ b ≠ 0x4D then
          ended (respond .lc .unrecognized 0x00 (zext64 b) (enterFailed .idMismatch { s1 with chipId := b })) rs1
        else
          memOp (.write s.cfg.aEnable s.cfg.vPon) { s1 with chipId := b } (fun r s2 rs2 =>
            match r with
            | .err e => ended (failAttach .ponXt e s2) rs2
            | .ok _ =>
              memOp (.write s.cfg.aEnable (s.cfg.vPon ||| s.cfg.vAen))
                (txWait (ponTicks s.cfg) { s2 with pwr := .powered }) (fun r s3 rs3 =>
                match r with
                | .err e => ended (failAttach .aenXt e s3) rs3
                | .ok _ =>
                  ended (respond .lc .ok 0x00 (zext64 b)
                    { txWait (aenTicks s.cfg) { s3 with pwr := .active } with st := .idleA }) rs3) rs2) rs1
  else ended (respond .lc .invalid 0x00 (zext64 s.chipId) s)

/-- DETACH (41_lifecycle.md R201). -/
def txDetach (s : State) : Answers → Option TxEnd :=
  if s.st = .idleU then ended (respond .lc .invalid 0x00 0 s)
  else if s.st = .idleA ∨ s.pwr ≠ .off then
    memOp (.write s.cfg.aEnable vOff) { s with cport := .lc } fun r s1 =>
      match r with
      | .err e => ended (respond .lc .transport e 0 (release { s1 with pwr := .off }))
      | .ok _ => ended (respond .lc .ok 0x00 0 (release { s1 with pwr := .off }))
  else ended (respond .lc .ok 0x00 0 (release s))

/-- A whole command at transaction level. -/
def txRun (i : Instr) (s : State) : Answers → Option TxEnd :=
  match i with
  | .readc arg => txChannelRead .clear 0x01 arg s
  | .readr arg => txChannelRead .red 0x02 arg s
  | .readg arg => txChannelRead .green 0x03 arg s
  | .readb arg => txChannelRead .blue 0x04 arg s
  | .setgain arg => txConfigWrite s.cfg.aControl 0x05 arg s
  | .setatime arg => txConfigWrite s.cfg.aAtime 0x06 arg s
  | .invalidOp _ _ => ended (respond .req .invalid 0x00 0 s)
  | .sample => txSample s
  | .attach => txAttach s
  | .detach => txDetach s

end Sys2Proof.Machine
end

