-- ==== Sys2Proof/Safety.lean ====
section
/-! DEFINITION. What counts as a legal state of the block (the invariant every step keeps), the duties of the agents around it
(20_memory.md R83, 60_exceptions.md R335), and the vocabulary of the statements. -/

namespace Sys2Proof.Machine

/-- The constraints of 00_scope.md R7 on a parameter set, spelled out: "every `A_*` is in 0..127" holds by type, a single-bit
mask is a power of two, and both tick counts fit the timer (for `PON_TICKS` DEDUCED, log entry 5). -/
abbrev ParameterConstraints (p : Params) : Prop :=
  1 ≤ p.fClkHz ∧ (∃ k, k < 8 ∧ p.vPon = BitVec.ofNat 8 (2 ^ k)) ∧ (∃ k, k < 8 ∧ p.vAen = BitVec.ofNat 8 (2 ^ k)) ∧
  p.vPon &&& p.vAen = 0 ∧ 200 ≤ p.tAenMs ∧ p.tAenMs ≤ 700 ∧ 10 ≤ p.tPonMs ∧
  1 ≤ ponTicks p ∧ 1 ≤ aenTicks p ∧ aenTicks p ≤ 2 ^ 32 - 1 ∧ ponTicks p ≤ 2 ^ 32 - 1

/-- No handle: every handle register at its reset value (41_lifecycle.md R206). -/
abbrev NoHandle (s : State) : Prop := s.pwr = .off ∧ s.fail = .none ∧ s.fxerr = 0 ∧ s.chipId = 0

/-- A handle with an accepted identity and no failure. -/
abbrev Identified (s : State) : Prop := s.fail = .none ∧ s.fxerr = 0 ∧ idAccepted s.chipId = true

/-- FAILED after the second enable write: PON is on (41_lifecycle.md R187). -/
abbrev FailedPowered (s : State) : Prop := s.fail = .aenXt ∧ s.pwr = .powered ∧ idAccepted s.chipId = true

/-- FAILED by the identity check (R182), by its transport (R183), by the first enable write (R185) or by the second. -/
abbrev FailedHandle (s : State) : Prop :=
  (s.fail = .idMismatch ∧ s.pwr = .off ∧ s.fxerr = 0 ∧ idAccepted s.chipId = false) ∨
  (s.fail = .idXt ∧ s.pwr = .off ∧ s.chipId = 0) ∨
  (s.fail = .ponXt ∧ s.pwr = .off ∧ idAccepted s.chipId = true) ∨
  FailedPowered s

/-- The handle registers agree with the FSM state (10_state.md R37 to R39), and the FSM code is a used one (R57). -/
abbrev HandleInv (s : State) : Prop :=
  s.st.isUnused = false ∧
  (s.st = .idleU ∨ s.st = .idRd → NoHandle s) ∧
  (s.st = .ponWr → Identified s ∧ s.pwr = .off) ∧
  (s.st = .ponWait ∨ s.st = .aenWr → Identified s ∧ s.pwr = .powered) ∧
  (s.st = .aenWait ∨ s.st = .idleA ∨ s.st = .rdLo ∨ s.st = .rdHi ∨ s.st = .cfgWr → Identified s ∧ s.pwr = .active) ∧
  (s.st = .tdWr → (Identified s ∧ s.pwr = .active) ∨ FailedPowered s) ∧
  (s.st = .idleF → FailedHandle s)

/-- The transaction flag is set only in a transaction state (10_state.md R43a, 20_memory.md R82). -/
abbrev XferInv (s : State) : Prop := s.xq = true → s.st.isXfer = true

/-- The timer counts only in the waits and never above what they load (60_exceptions.md R320, 41_lifecycle.md R190). -/
abbrev TimerInv (s : State) : Prop :=
  (s.st.isWait = false → s.tmr = 0) ∧
  (s.st = .ponWait → s.tmr.toNat ≤ ponTicks s.cfg) ∧
  (s.st = .aenWait → s.tmr.toNat ≤ aenTicks s.cfg)

/-- The command registers name a command that runs through the FSM state (44_request.md R270, 42_sample.md R230,
41_lifecycle.md R180, R200). -/
abbrev CommandInv (s : State) : Prop :=
  (s.st = .idRd ∨ s.st = .ponWr ∨ s.st = .ponWait ∨ s.st = .aenWr ∨ s.st = .aenWait ∨ s.st = .tdWr → s.cport = .lc) ∧
  (s.st = .rdLo ∨ s.st = .rdHi →
    s.cport = .smp ∨ (s.cport = .req ∧ s.cop.toNat = s.ch.code.toNat + 1)) ∧
  (s.st = .cfgWr → s.cport = .req ∧ (s.cop = 0x05 ∨ s.cop = 0x06))

/-- The response register holds one of the responses of 60_exceptions.md R300: an error code only with TRANSPORT (30_encoding.md
R129), no data in an error response on REQ or SMP (R130), each status on the ports that raise it. -/
abbrev ResponseInv (s : State) : Prop :=
  (s.rspStatus ≠ .transport → s.rspXerr = 0) ∧
  (s.rspPort ≠ .lc → s.rspStatus ≠ .ok → s.rspData = 0) ∧
  (s.rspStatus = .unrecognized → s.rspPort = .lc) ∧
  (s.rspStatus = .notReady → s.rspPort ≠ .lc) ∧
  (s.rspStatus = .invalid → s.rspPort ≠ .smp)

/-- The legal states of the machine: legal parameters, a canonical sensor memory, and registers that agree with each other. -/
structure State.Inv (s : State) : Prop where
  cfg : legalParams s.cfg = true
  sensor : Memory.wf s.sensor = true
  handle : HandleInv s
  xfer : XferInv s
  timer : TimerInv s
  command : CommandInv s
  response : ResponseInv s

/-- The adapter's duties of 20_memory.md R83 (b) and (c) at the coming edge: it answers only an outstanding transaction. -/
def adapterDuty (s : State) : Prop := s.input.xrValid = true → outstanding s = true

/-- The host's duty of 60_exceptions.md R335 at the pins, between two edges: a payload offered and not taken is the same at the
next edge if it is offered there still. The host may hold a `valid` for any time and may take it back; SMP has no payload. -/
def hostDuty (s t : State) : Prop :=
  (s.input.reqValid = true → reqReady s = false → t.input.reqValid = true → t.input.reqWord = s.input.reqWord) ∧
  (s.input.lcValid = true → lcReady s = false → t.input.lcValid = true → t.input.lcOp = s.input.lcOp)

/-- Along the next `n` edges a port's command is offered and not taken, and the host keeps its duty at each. `valid` and
`ready` are the port's two handshake signals. -/
def heldFor (valid ready : State → Bool) (n : Nat) (s : State) : Prop :=
  ∀ k, k < n → ∃ u v, stateAfter k s = some u ∧ stateAfter (k + 1) s = some v ∧
    valid u = true ∧ ready u = false ∧ valid v = true ∧ hostDuty u v

/-- No reset at the next `n` edges. -/
def noReset (n : Nat) (s : State) : Prop := ∀ k, k < n → (s.inputAt k).rst = false

/-- The block is busy after each of the first `n` edges and before them: a command is in progress throughout. -/
def busyFor (n : Nat) (s : State) : Prop := ∀ k, k < n → ∀ u, stateAfter k s = some u → u.st.isIdle = false

/-- The same registers, parameters and sensor bytes; the pins to come and the edge count may differ. -/
def sameBlock (s t : State) : Prop := { s with script := [], edge := 0 } = { t with script := [], edge := 0 }

/-- A completion edge in state `st` (10_state.md R53): legal parameters, no reset, a transaction outstanding, an answer. -/
structure CompletionEdge (st : Fsm) (s : State) : Prop where
  legal : legalParams s.cfg = true
  noRst : s.input.rst = false
  inState : s.st = st
  awaiting : s.xq = true
  answered : s.input.xrValid = true

/-- The channel read of a channel: READC, READR, READG or READB. -/
def readInstr : Channel → Byte → Instr
  | .clear, arg => .readc arg
  | .red, arg => .readr arg
  | .green, arg => .readg arg
  | .blue, arg => .readb arg

/-- The op code of a channel read (30_encoding.md R122). -/
def readOp : Channel → Byte
  | .clear => 0x01
  | .red => 0x02
  | .green => 0x03
  | .blue => 0x04

/-- The eight reads of a sample, in order (42_sample.md R233). -/
def sampleReads (p : Params) : List Xact :=
  [.read p.aCdata, .read (p.aCdata + 1), .read p.aRdata, .read (p.aRdata + 1),
   .read p.aGdata, .read (p.aGdata + 1), .read p.aBdata, .read (p.aBdata + 1)]

end Sys2Proof.Machine
end

