-- ==== Sys2Proof/Certificates/Slice0/Obligations.lean ====
section
/-! DEFINITION. The statements for the provers, from the numbered rules of spec/. -/

open Sys2Proof Sys2Proof.Machine

/-! ### Encoding -/

/-- 30_encoding.md R122, R124, R125 and the vectors of 95_test_vectors.md 2.1: written-out transfers decode to their commands. -/
def Obligations.WrittenTransfersDecodeToTheirCommands : Prop :=
  decode (.req 0x0100) = .readc 0x00 ∧ decode (.req 0x01AB) = .readc 0xAB ∧ decode (.req 0x0200) = .readr 0x00 ∧
  decode (.req 0x03FF) = .readg 0xFF ∧ decode (.req 0x0400) = .readb 0x00 ∧ decode (.req 0x0503) = .setgain 0x03 ∧
  decode (.req 0x06C0) = .setatime 0xC0 ∧ decode (.req 0x0000) = .invalidOp 0x00 0x00 ∧
  decode (.req 0x0700) = .invalidOp 0x07 0x00 ∧ decode (.req 0xFF05) = .invalidOp 0xFF 0x05 ∧
  decode .smp = .sample ∧ decode (.lc 0) = .attach ∧ decode (.lc 1) = .detach

/-- Every well-formed command is decoded back from its own transfer, with every operand at every value, and travels on the
port it belongs to. -/
def Obligations.DecodeOfEncodeIsTheCommand : Prop :=
  ∀ i : Instr, i.wellFormed = true → decode (encode i) = i ∧ (encode i).port = i.port

/-- 30_encoding.md R126: decoding is total, gives well-formed commands only, and loses no bit of a transfer. -/
def Obligations.EncodeOfDecodeIsTheTransfer : Prop :=
  ∀ p : Payload, (decode p).wellFormed = true ∧ encode (decode p) = p

/-- 30_encoding.md R134, R122: exactly the op codes 0x00 and 0x07 to 0xFF are invalid. -/
def Obligations.InvalidOpIsExactlyTheUnnamedOpCodes : Prop :=
  ∀ w : Word, (∃ op arg, decode (.req w) = .invalidOp op arg) ↔
    ((w >>> 8).toNat = 0 ∨ 7 ≤ (w >>> 8).toNat)

/-- 30_encoding.md R133: an operand out of range is refused by the assembler, every other line is one transfer, and that
transfer is the line's command. -/
def Obligations.AssemblerLinesAreTheirCommands : Prop :=
  (∀ n, (n < 256 → (assemble (.setgain n)).map decode = some (.setgain (BitVec.ofNat 8 n)) ∧
                   (assemble (.setatime n)).map decode = some (.setatime (BitVec.ofNat 8 n))) ∧
        (256 ≤ n → assemble (.setgain n) = none ∧ assemble (.setatime n) = none)) ∧
  (∀ n, (n < 65536 → assemble (.rawReq n) = some (.req (BitVec.ofNat 16 n))) ∧
        (65536 ≤ n → assemble (.rawReq n) = none)) ∧
  (assemble .readc).map decode = some (.readc 0) ∧ (assemble .readr).map decode = some (.readr 0) ∧
  (assemble .readg).map decode = some (.readg 0) ∧ (assemble .readb).map decode = some (.readb 0) ∧
  (assemble .sample).map decode = some .sample ∧ (assemble .attach).map decode = some .attach ∧
  (assemble .detach).map decode = some .detach

/-! ### Values -/

/-- 40_word_reader.md R160, 20_memory.md R87, 30_encoding.md R130: a word is `(high << 8) | low`, its result's first two
bytes are the low byte and the high byte, and the sample's bytes go clear, red, green, blue, each low byte first. -/
def Obligations.ResultsAreLittleEndian : Prop :=
  (∀ low high : Byte, wordOf high low = ((high.setWidth 16) <<< 8) ||| low.setWidth 16 ∧
    resultBytes (zext64 (wordOf high low)) 2 = [low, high]) ∧
  ∀ l0 h0 l1 h1 l2 h2 l3 h3 : Byte,
    resultBytes (sampleData (wordOf h0 l0) (wordOf h1 l1) (wordOf h2 l2) (wordOf h3 l3)) 8 =
      [l0, h0, l1, h1, l2, h2, l3, h3]

/-- 20_memory.md R84: the command byte has its high bit set and the register address below it. -/
def Obligations.CommandByteFramesTheAddress : Prop :=
  ∀ a : RegAddr, (frame a).getMsbD 0 = true ∧ (frame a).setWidth 7 = a

/-- 00_scope.md R7: the tick counts are `T_PON_MS * F_CLK_HZ / 1000` and `T_AEN_MS * F_CLK_HZ / 1000` rounded up. -/
def Obligations.TickCountsAreTheDelaysRoundedUp : Prop :=
  ∀ p : Params,
    p.tPonMs * p.fClkHz ≤ 1000 * ponTicks p ∧ 1000 * ponTicks p < p.tPonMs * p.fClkHz + 1000 ∧
    p.tAenMs * p.fClkHz ≤ 1000 * aenTicks p ∧ 1000 * aenTicks p < p.tAenMs * p.fClkHz + 1000

/-- 10_state.md R37: the lifecycle state and its code, for every used FSM code; the codes 5 to 7 are never output. -/
def Obligations.LifecycleOutputFollowsTheFsm : Prop :=
  ∀ s : State,
    (s.st = .idleU ∨ s.st = .idRd → (outputs s).stLc = 0) ∧
    (s.st = .ponWr → (outputs s).stLc = 1) ∧
    (s.st = .ponWait ∨ s.st = .aenWr ∨ s.st = .aenWait → (outputs s).stLc = 2) ∧
    (s.st = .idleA ∨ s.st = .rdLo ∨ s.st = .rdHi ∨ s.st = .cfgWr → (outputs s).stLc = 3) ∧
    (s.st = .tdWr → s.fail ≠ .none → (outputs s).stLc = 4) ∧
    (s.st = .tdWr → s.fail = .none → (outputs s).stLc = 3) ∧
    (s.st = .idleF → (outputs s).stLc = 4) ∧
    (outputs s).stLc.toNat ≤ 4

/-! ### The step: reset, arbitration, parameters -/

/-- The step runs the decoded command: when the payload offered first decodes to `i`, the edge is `exec i`, and its input
pins are then used up. -/
def Obligations.StepRunsTheOfferedCommand : Prop :=
  ∀ (s : State) (p : Payload) (i : Instr), legalParams s.cfg = true → s.input.rst = false →
    offeredPayload s.input = some p → decode p = i → step s = mapNext State.advance (exec i s)

/-- 10_state.md R51: the ready outputs; the first of REQ, SMP, LC whose `valid` is 1 is taken; without one the registers
other than the response registers keep their values; outside IDLE every command is held: the edge does not depend on
what is offered. -/
def Obligations.CommandsAreTakenOnlyInIdleInPortOrder : Prop :=
  ∀ s : State,
    (s.input.rst = true → reqReady s = false ∧ smpReady s = false ∧ lcReady s = false) ∧
    (s.input.rst = false →
      reqReady s = s.st.isIdle ∧
      smpReady s = (s.st.isIdle && !s.input.reqValid) ∧
      lcReady s = (s.st.isIdle && !s.input.reqValid && !s.input.smpValid)) ∧
    (legalParams s.cfg = true → s.input.rst = false → s.st.isIdle = true →
      (s.input.reqValid = true → step s = mapNext State.advance (exec (decodeReq s.input.reqWord) s)) ∧
      (s.input.reqValid = false → s.input.smpValid = true → step s = mapNext State.advance (exec .sample s)) ∧
      (s.input.reqValid = false → s.input.smpValid = false → s.input.lcValid = true →
        step s = mapNext State.advance (exec (decodeLc s.input.lcOp) s)) ∧
      (s.input.reqValid = false → s.input.smpValid = false → s.input.lcValid = false →
        step s = .next (State.advance { s with rspValid := false }))) ∧
    (legalParams s.cfg = true → s.input.rst = false → s.st.isIdle = false →
      ∀ i : Instr, mapNext State.advance (exec i s) = step s)

/-- 70_reset_and_hazards.md R340: at an edge with `rst = 1` every register takes its reset value, whatever else happens; no
command is taken, no answer consumed, no transaction accepted; the ready outputs and `xt_valid` are 0. That the
parameters stay is 00_scope.md R8; that the sensor bytes stay is R342, with what the model keeps of them at an abandoned
write DEDUCED (log entry 7). -/
def Obligations.ResetEdgeLoadsEveryRegister : Prop :=
  ∀ s : State, legalParams s.cfg = true → s.input.rst = true →
    step s = .next
      { cfg := s.cfg, st := .idleU, xq := false, pwr := .off, fail := .none, fxerr := 0, chipId := 0, tmr := 0,
        cport := .req, cop := 0, carg := 0, ch := .clear, lo := 0, buf := ⟨0, 0, 0, 0⟩,
        rspValid := false, rspPort := .req, rspStatus := .ok, rspXerr := 0, rspData := 0,
        sensor := s.sensor, script := s.script.tail, edge := s.edge + 1 } ∧
    reqReady s = false ∧ smpReady s = false ∧ lcReady s = false ∧ (outputs s).xtValid = false ∧
    acceptedXact s = none ∧ consumedAnswer s = none

/-- 10_state.md R33: the reset values, as codes on the registers' own widths. -/
def Obligations.ResetStateHoldsTheResetValues : Prop :=
  State.reset.st.code = 0x0 ∧ State.reset.xq = false ∧ State.reset.pwr.code = 0b00 ∧ State.reset.fail.code = 0 ∧
  State.reset.fxerr = 0x00 ∧ State.reset.chipId = 0x00 ∧ State.reset.tmr = 0 ∧ portCode State.reset.cport = 0 ∧
  State.reset.cop = 0x00 ∧ State.reset.carg = 0x00 ∧ State.reset.ch.code = 0 ∧ State.reset.lo = 0x00 ∧
  (∀ c, State.reset.buf.get c = 0x0000) ∧ State.reset.rspValid = false ∧ portCode State.reset.rspPort = 0 ∧
  State.reset.rspStatus.code = 0 ∧ State.reset.rspXerr = 0x00 ∧ State.reset.rspData = 0

/-- 00_scope.md R7: the step refuses exactly the parameter sets that break a constraint, and refuses nothing else: with legal
parameters every state has a next state. (That `PON_TICKS` must fit the timer too is DEDUCED: log entry 5.) -/
def Obligations.OnlyIllegalParametersAreRefused : Prop :=
  ∀ s : State,
    (ParameterConstraints s.cfg → ∃ t, step s = .next t) ∧
    (¬ParameterConstraints s.cfg → step s = .refused .illegalParameters)

/-- 00_scope.md R8: no edge changes the build-time parameters. -/
def Obligations.NoStepChangesTheParameters : Prop :=
  ∀ s t : State, step s = .next t → t.cfg = s.cfg

/-! ### Accept edges -/

/-- 44_request.md R270, R271: the REQ accept rule, whole. -/
def Obligations.ReqTransferFollowsTheAcceptRule : Prop :=
  ∀ (w : Word) (s : State), s.st.isIdle = true →
    ((w >>> 8).toNat = 0 ∨ 7 ≤ (w >>> 8).toNat →
      exec (decode (.req w)) s = .next
        { s with rspValid := true, rspPort := .req, rspStatus := .invalid, rspXerr := 0x00, rspData := 0 }) ∧
    (1 ≤ (w >>> 8).toNat → (w >>> 8).toNat ≤ 6 → s.st ≠ .idleA →
      exec (decode (.req w)) s = .next
        { s with rspValid := true, rspPort := .req, rspStatus := .notReady, rspXerr := 0x00, rspData := 0 }) ∧
    (∀ c : Channel, (w >>> 8).toNat = c.code.toNat + 1 → s.st = .idleA →
      exec (decode (.req w)) s = .next
        { s with cport := .req, cop := (w >>> 8).setWidth 8, carg := w.setWidth 8, ch := c, st := .rdLo,
                 rspValid := false }) ∧
    ((w >>> 8).toNat = 5 ∨ (w >>> 8).toNat = 6 → s.st = .idleA →
      exec (decode (.req w)) s = .next
        { s with cport := .req, cop := (w >>> 8).setWidth 8, carg := w.setWidth 8, st := .cfgWr, rspValid := false })

/-- 44_request.md R276: INVALID_OP is answered at its accept edge in every idle state; nothing but the response register
changes and no transaction is issued. -/
def Obligations.InvalidOpIsAnsweredAtOnce : Prop :=
  ∀ (op arg : Byte) (s : State), (Instr.invalidOp op arg).wellFormed = true → s.st.isIdle = true →
    exec (.invalidOp op arg) s = .next
      { s with rspValid := true, rspPort := .req, rspStatus := .invalid, rspXerr := 0x00, rspData := 0 } ∧
    acceptedXact s = none

/-- 42_sample.md R230: the SAMPLE accept rule. -/
def Obligations.SampleTransferFollowsTheAcceptRule : Prop :=
  ∀ s : State,
    (s.st = .idleA → exec .sample s = .next { s with cport := .smp, ch := .clear, st := .rdLo, rspValid := false }) ∧
    (s.st = .idleU ∨ s.st = .idleF → exec .sample s = .next
      { s with rspValid := true, rspPort := .smp, rspStatus := .notReady, rspXerr := 0x00, rspData := 0 } ∧
      acceptedXact s = none)

/-- 41_lifecycle.md R180: the ATTACH accept rule; with a live handle it is refused and changes the response register only. -/
def Obligations.AttachTransferFollowsTheAcceptRule : Prop :=
  ∀ s : State,
    (s.st = .idleU → exec .attach s = .next { s with cport := .lc, st := .idRd, rspValid := false }) ∧
    (s.st = .idleA ∨ s.st = .idleF → exec .attach s = .next
      { s with rspValid := true, rspPort := .lc, rspStatus := .invalid, rspXerr := 0x00,
               rspData := s.chipId.setWidth 64 } ∧ acceptedXact s = none)

/-- 41_lifecycle.md R200, R204: the DETACH accept rule, with the release that writes nothing. -/
def Obligations.DetachTransferFollowsTheAcceptRule : Prop :=
  ∀ s : State,
    (s.st = .idleA → exec .detach s = .next { s with cport := .lc, st := .tdWr, rspValid := false }) ∧
    (s.st = .idleF → s.pwr ≠ .off → exec .detach s = .next { s with cport := .lc, st := .tdWr, rspValid := false }) ∧
    (s.st = .idleF → s.pwr = .off → exec .detach s = .next
      { s with fail := .none, fxerr := 0x00, chipId := 0x00, st := .idleU,
               rspValid := true, rspPort := .lc, rspStatus := .ok, rspXerr := 0x00, rspData := 0 } ∧
      acceptedXact s = none) ∧
    (s.st = .idleU → exec .detach s = .next
      { s with rspValid := true, rspPort := .lc, rspStatus := .invalid, rspXerr := 0x00, rspData := 0 } ∧
      acceptedXact s = none)

/-! ### The transport port -/

/-- 20_memory.md R81: in a transaction state with `xq = 0` the port shows that state's transaction; in every other cycle, and
while `rst = 1`, it shows nothing; a transaction offered and not accepted is offered unchanged in the next cycle. -/
def Obligations.TransportPortShowsTheStatesTransaction : Prop :=
  ∀ s : State,
    let shows := fun (we : Bool) (a : RegAddr) (v : Byte) =>
      (outputs s).xtValid = true ∧ (outputs s).xtWe = we ∧ (outputs s).xtAddr = a ∧ (outputs s).xtWdata = v
    (s.input.rst = false → s.xq = false →
      (s.st = .idRd → shows false s.cfg.aId 0x00) ∧
      (s.st = .ponWr → shows true s.cfg.aEnable s.cfg.vPon) ∧
      (s.st = .aenWr → shows true s.cfg.aEnable (s.cfg.vPon ||| s.cfg.vAen)) ∧
      (s.st = .rdLo → shows false (chanAddr s.cfg s.ch) 0x00) ∧
      (s.st = .rdHi → shows false (chanAddr s.cfg s.ch + 1) 0x00) ∧
      (s.st = .cfgWr → shows true (if s.cop = 0x05 then s.cfg.aControl else s.cfg.aAtime) s.carg) ∧
      (s.st = .tdWr → shows true s.cfg.aEnable 0x00)) ∧
    (s.input.rst = true ∨ s.xq = true ∨ s.st.isXfer = false →
      (outputs s).xtValid = false ∧ (outputs s).xtWe = false ∧ (outputs s).xtAddr = 0 ∧ (outputs s).xtWdata = 0x00) ∧
    (∀ t : State, (outputs s).xtValid = true → s.input.xtReady = false → step s = .next t → t.input.rst = false →
      (outputs t).xtValid = true ∧ (outputs t).xtWe = (outputs s).xtWe ∧ (outputs t).xtAddr = (outputs s).xtAddr ∧
      (outputs t).xtWdata = (outputs s).xtWdata)

/-- 10_state.md R53, R54: the transaction arm's handshake. What the accept edge does to the model's sensor bytes is left
open here (it is the model's choice, log entry 6): only the block's registers are stated there. -/
def Obligations.TransactionHandshake : Prop :=
  ∀ s : State, legalParams s.cfg = true → s.input.rst = false → s.st.isXfer = true →
    (s.xq = false → s.input.xtReady = false → step s = .next (State.advance { s with rspValid := false })) ∧
    (s.xq = false → s.input.xtReady = true →
      ∃ m, step s = .next (State.advance { s with xq := true, sensor := m, rspValid := false })) ∧
    (s.xq = true → s.input.xrValid = false → step s = .next (State.advance { s with rspValid := false })) ∧
    (s.xq = true → s.input.xrValid = true → ∃ t, step s = .next t ∧ t.xq = false)

/-- 20_memory.md R82: a transaction is offered only in a transaction state with `xq = 0`, so only when none is outstanding, and one is outstanding after an edge exactly
when it was accepted at it or was outstanding and not completed. -/
def Obligations.AtMostOneTransactionIsOutstanding : Prop :=
  ∀ s t : State, s.Inv → step s = .next t →
    (offeredXact s ≠ none → s.st.isXfer = true ∧ s.xq = false ∧ outstanding s = false) ∧
    (outstanding t = true ↔ s.input.rst = false ∧
      (acceptedXact s ≠ none ∨ (outstanding s = true ∧ consumedAnswer s = none)))

/-- 10_state.md R58: an answer with no transaction outstanding changes nothing, and outside the transfer edge of its port
(outside IDLE, or not offered, or offered behind another port) a payload changes nothing. -/
def Obligations.InputsInTheWrongStateAreIgnored : Prop :=
  ∀ (s : State) (e : EdgeIn) (rest : List EdgeIn) (v ok : Bool) (d err : Byte),
    (s.st.isXfer = false ∨ s.xq = false →
      step { s with script := e :: rest } =
        step { s with script := { e with xrValid := v, xrOk := ok, xrRdata := d, xrErr := err } :: rest }) ∧
    (s.st.isIdle = false → ∀ (rv sv lv : Bool) (w : Word) (b : BitVec 1),
      step { s with script := e :: rest } =
        step { s with script :=
          { e with reqValid := rv, reqWord := w, smpValid := sv, lcValid := lv, lcOp := b } :: rest }) ∧
    (e.reqValid = false → ∀ w : Word,
      step { s with script := e :: rest } = step { s with script := { e with reqWord := w } :: rest }) ∧
    (e.reqValid = true ∨ e.smpValid = true ∨ e.lcValid = false → ∀ b : BitVec 1,
      step { s with script := e :: rest } = step { s with script := { e with lcOp := b } :: rest })

/-! ### Completion edges and waits

Each names the state's transaction and what its answer does. What a write leaves in the model's sensor bytes is left open here
(log entry 6); OnlyTheAddressedSensorByteChanges and the whole-command statements say it. -/

/-- 41_lifecycle.md R182, R183: the answer to the identity read. -/
def Obligations.IdentityReadCompletion : Prop :=
  ∀ s : State, CompletionEdge .idRd s →
    xactOf s = some (.read s.cfg.aId) ∧
    (s.input.xrOk = true → (s.input.xrRdata = 0x44 ∨ s.input.xrRdata = 0x4D) →
      step s = .next (State.advance
        { s with xq := false, chipId := s.input.xrRdata, st := .ponWr, rspValid := false })) ∧
    (s.input.xrOk = true → s.input.xrRdata ≠ 0x44 → s.input.xrRdata ≠ 0x4D →
      step s = .next (State.advance
        { s with xq := false, chipId := s.input.xrRdata, fail := .idMismatch, st := .idleF, rspValid := true,
                 rspPort := .lc, rspStatus := .unrecognized, rspXerr := 0x00,
                 rspData := s.input.xrRdata.setWidth 64 })) ∧
    (s.input.xrOk = false →
      step s = .next (State.advance
        { s with xq := false, fail := .idXt, fxerr := s.input.xrErr, st := .idleF, rspValid := true,
                 rspPort := .lc, rspStatus := .transport, rspXerr := s.input.xrErr,
                 rspData := s.chipId.setWidth 64 }))

/-- 41_lifecycle.md R184, R185: the answer to the power-on write. -/
def Obligations.PowerOnWriteCompletion : Prop :=
  ∀ s : State, CompletionEdge .ponWr s →
    xactOf s = some (.write s.cfg.aEnable s.cfg.vPon) ∧
    (s.input.xrOk = true →
      ∃ m, step s = .next (State.advance
        { s with xq := false, pwr := .powered, tmr := BitVec.ofNat 32 (ponTicks s.cfg), st := .ponWait,
                 rspValid := false, sensor := m })) ∧
    (s.input.xrOk = false →
      ∃ m, step s = .next (State.advance
        { s with xq := false, fail := .ponXt, fxerr := s.input.xrErr, st := .idleF, rspValid := true,
                 rspPort := .lc, rspStatus := .transport, rspXerr := s.input.xrErr,
                 rspData := s.chipId.setWidth 64, sensor := m }))

/-- 41_lifecycle.md R186, R187: the answer to the ADC-enable write. -/
def Obligations.AdcEnableWriteCompletion : Prop :=
  ∀ s : State, CompletionEdge .aenWr s →
    xactOf s = some (.write s.cfg.aEnable (s.cfg.vPon ||| s.cfg.vAen)) ∧
    (s.input.xrOk = true →
      ∃ m, step s = .next (State.advance
        { s with xq := false, pwr := .active, tmr := BitVec.ofNat 32 (aenTicks s.cfg), st := .aenWait,
                 rspValid := false, sensor := m })) ∧
    (s.input.xrOk = false →
      ∃ m, step s = .next (State.advance
        { s with xq := false, fail := .aenXt, fxerr := s.input.xrErr, st := .idleF, rspValid := true,
                 rspPort := .lc, rspStatus := .transport, rspXerr := s.input.xrErr,
                 rspData := s.chipId.setWidth 64, sensor := m }))

/-- 41_lifecycle.md R190, R189: the wait arm: no transaction, no command taken, the count, the exits. -/
def Obligations.WaitArmCountsDownAndExits : Prop :=
  ∀ s : State, legalParams s.cfg = true → s.input.rst = false →
    (s.st = .ponWait ∨ s.st = .aenWait →
      (outputs s).xtValid = false ∧ reqReady s = false ∧ smpReady s = false ∧ lcReady s = false) ∧
    (s.st = .ponWait ∨ s.st = .aenWait → s.tmr ≠ 0 →
      step s = .next (State.advance { s with tmr := s.tmr - 1, rspValid := false })) ∧
    (s.st = .ponWait → s.tmr = 0 → step s = .next (State.advance { s with st := .aenWr, rspValid := false })) ∧
    (s.st = .aenWait → s.tmr = 0 →
      step s = .next (State.advance
        { s with st := .idleA, rspValid := true, rspPort := .lc, rspStatus := .ok, rspXerr := 0x00,
                 rspData := s.chipId.setWidth 64 }))

/-- 41_lifecycle.md R203: the answer to the teardown write; the handle is released whatever it is. -/
def Obligations.TeardownWriteCompletion : Prop :=
  ∀ s : State, CompletionEdge .tdWr s →
    xactOf s = some (.write s.cfg.aEnable 0x00) ∧
    (s.input.xrOk = true →
      ∃ m, step s = .next (State.advance
        { s with xq := false, pwr := .off, fail := .none, fxerr := 0x00, chipId := 0x00, st := .idleU,
                 rspValid := true, rspPort := .lc, rspStatus := .ok, rspXerr := 0x00, rspData := 0,
                 sensor := m })) ∧
    (s.input.xrOk = false →
      ∃ m, step s = .next (State.advance
        { s with xq := false, pwr := .off, fail := .none, fxerr := 0x00, chipId := 0x00, st := .idleU,
                 rspValid := true, rspPort := .lc, rspStatus := .transport, rspXerr := s.input.xrErr,
                 rspData := 0, sensor := m }))

/-- 40_word_reader.md R161: the answer to a low-byte read. -/
def Obligations.LowByteCompletion : Prop :=
  ∀ s : State, CompletionEdge .rdLo s →
    xactOf s = some (.read (chanAddr s.cfg s.ch)) ∧
    (s.input.xrOk = true →
      step s = .next (State.advance { s with xq := false, lo := s.input.xrRdata, st := .rdHi, rspValid := false })) ∧
    (s.input.xrOk = false →
      step s = .next (State.advance
        { s with xq := false, st := .idleA, rspValid := true, rspPort := s.cport, rspStatus := .transport,
                 rspXerr := s.input.xrErr, rspData := 0 }))

/-- 40_word_reader.md R162, R163, 42_sample.md R232, 44_request.md R277: the answer to a high-byte read. -/
def Obligations.HighByteCompletion : Prop :=
  ∀ (s : State) (w : Word), CompletionEdge .rdHi s → w = s.input.xrRdata ++ s.lo →
    xactOf s = some (.read (chanAddr s.cfg s.ch + 1)) ∧
    (s.input.xrOk = false →
      step s = .next (State.advance
        { s with xq := false, st := .idleA, rspValid := true, rspPort := s.cport, rspStatus := .transport,
                 rspXerr := s.input.xrErr, rspData := 0 })) ∧
    (s.input.xrOk = true → s.cport = .req →
      step s = .next (State.advance
        { s with xq := false, st := .idleA, buf := s.buf.set s.ch w, rspValid := true, rspPort := .req,
                 rspStatus := .ok, rspXerr := 0x00, rspData := w.setWidth 64 })) ∧
    (s.input.xrOk = true → s.cport = .smp → s.ch = .blue →
      step s = .next (State.advance
        { s with xq := false, st := .idleA, buf := s.buf.set .blue w, rspValid := true, rspPort := .smp,
                 rspStatus := .ok, rspXerr := 0x00, rspData := w ++ s.buf.green ++ s.buf.red ++ s.buf.clear })) ∧
    (s.input.xrOk = true → s.cport = .smp → ∀ c : Channel, c.code.toNat = s.ch.code.toNat + 1 →
      step s = .next (State.advance
        { s with xq := false, st := .rdLo, ch := c, buf := s.buf.set s.ch w, rspValid := false }))

/-- 43_config.md R250: the answer to a configuration write. -/
def Obligations.ConfigWriteCompletion : Prop :=
  ∀ (s : State) (a : RegAddr), CompletionEdge .cfgWr s →
    a = (if s.cop = 0x05 then s.cfg.aControl else s.cfg.aAtime) →
    xactOf s = some (.write a s.carg) ∧
    (s.input.xrOk = true →
      ∃ m, step s = .next (State.advance
        { s with xq := false, st := .idleA, rspValid := true, rspPort := .req, rspStatus := .ok, rspXerr := 0x00,
                 rspData := 0, sensor := m })) ∧
    (s.input.xrOk = false →
      ∃ m, step s = .next (State.advance
        { s with xq := false, st := .idleA, rspValid := true, rspPort := .req, rspStatus := .transport,
                 rspXerr := s.input.xrErr, rspData := 0, sensor := m }))

/-- 10_state.md R57: an unused FSM code goes to IDLE_U with no transaction and no response, the other registers unchanged.
That `rsp_valid` is cleared there, as R55 says of every edge, is DEDUCED (log entry 8). -/
def Obligations.UnusedFsmCodesGoToIdleU : Prop :=
  ∀ s : State, legalParams s.cfg = true → s.input.rst = false → 0xC ≤ s.st.code.toNat →
    step s = .next (State.advance { s with st := .idleU, rspValid := false }) ∧ acceptedXact s = none

/-! ### Whole commands: accepted by exec, run edge by edge to their response -/

/-- 44_request.md R272 to R275: READC, READR, READG and READB, accepted in IDLE_A and served by an adapter that takes any
time, read the low byte and then the high byte of their channel and answer the word; `2 x (L + 1)` edges for an adapter
of latency `L` (R279: `hold = 0`, `late = L - 1`). -/
def Obligations.ChannelReadsCompleteWithTheirWord : Prop :=
  ∀ (c : Channel) (arg low high : Byte) (t : WordTiming) (rest : List EdgeIn) (s : State),
    legalParams s.cfg = true → s.st = .idleA → s.xq = false →
    s.script = offerPins (encode (readInstr c arg)) :: (serveWord t low high ++ rest) →
    ∃ s1, exec (readInstr c arg) s = .next s1 ∧
      stateAfter t.edges s1.advance = some
        { s with cport := .req, cop := readOp c, carg := arg, ch := c, lo := low,
                 buf := s.buf.set c (high ++ low : BitVec 16),
                 rspValid := true, rspPort := .req, rspStatus := .ok, rspXerr := 0x00,
                 rspData := (high ++ low : BitVec 16).setWidth 64,
                 script := rest, edge := s.edge + (t.edges + 1) } ∧
      issued t.edges s1.advance = [.read (chanAddr s.cfg c), .read (chanAddr s.cfg c + 1)] ∧
      t.edges = (t.hold1 + t.late1 + 2) + (t.hold2 + t.late2 + 2)

/-- 42_sample.md R231, R232, R233: SAMPLE, accepted in IDLE_A and served by an adapter that takes any time, reads the eight
bytes in order and answers the four words of this command. -/
def Obligations.SampleCompletesWithItsFourWords : Prop :=
  ∀ (l0 h0 l1 h1 l2 h2 l3 h3 : Byte) (t0 t1 t2 t3 : WordTiming) (rest : List EdgeIn) (s : State),
    legalParams s.cfg = true → s.st = .idleA → s.xq = false →
    s.script = offerPins .smp :: (serveWord t0 l0 h0 ++ serveWord t1 l1 h1 ++ serveWord t2 l2 h2 ++
      serveWord t3 l3 h3 ++ rest) →
    ∃ s1, exec .sample s = .next s1 ∧
      stateAfter (t0.edges + t1.edges + t2.edges + t3.edges) s1.advance = some
        { s with cport := .smp, ch := .blue, lo := l3, buf := ⟨h0 ++ l0, h1 ++ l1, h2 ++ l2, h3 ++ l3⟩,
                 rspValid := true, rspPort := .smp, rspStatus := .ok, rspXerr := 0x00,
                 rspData := (h3 ++ l3) ++ (h2 ++ l2) ++ (h1 ++ l1) ++ (h0 ++ l0),
                 script := rest, edge := s.edge + (t0.edges + t1.edges + t2.edges + t3.edges + 1) } ∧
      issued (t0.edges + t1.edges + t2.edges + t3.edges) s1.advance = sampleReads s.cfg

/-- 43_config.md R251 to R253, 20_memory.md R93: SETGAIN and SETATIME, accepted in IDLE_A and served at any time, perform
exactly one write of their argument, unmasked, to their register, and answer; every other sensor byte reads as before.
After success a read-back of the register returns the byte. -/
def Obligations.ConfigWritesComplete : Prop :=
  ∀ (i : Instr) (op : Byte) (a : RegAddr) (arg b : Byte) (hold late : Nat) (rest : List EdgeIn) (s : State),
    ((i = .setgain arg ∧ op = 0x05 ∧ a = s.cfg.aControl) ∨ (i = .setatime arg ∧ op = 0x06 ∧ a = s.cfg.aAtime)) →
    legalParams s.cfg = true → s.st = .idleA → s.xq = false →
    s.script = offerPins (encode i) :: (serve hold late (.ok b) ++ rest) →
    ∃ s1 t m, exec i s = .next s1 ∧ stateAfter (hold + late + 2) s1.advance = some t ∧
      t = { s with cport := .req, cop := op, carg := arg, rspValid := true, rspPort := .req, rspStatus := .ok,
                   rspXerr := 0x00, rspData := 0, sensor := m, script := rest, edge := s.edge + (hold + late + 3) } ∧
      issued (hold + late + 2) s1.advance = [.write a arg] ∧
      Memory.read m a.toNat = some arg ∧
      ∀ k, k ≠ a.toNat → Memory.read m k = Memory.read s.sensor k

/-- 41_lifecycle.md R181, R193: ATTACH, accepted in IDLE_U and served with success and an accepted identity byte, reads the
identity, writes PON, waits `PON_TICKS + 1` cycles, writes PON and AEN, waits `AEN_TICKS + 1` cycles and answers OK in
lifecycle ACTIVE; `5 + 3L + PON_TICKS + AEN_TICKS` edges for an adapter of latency `L`. -/
def Obligations.AttachCompletesInActive : Prop :=
  ∀ (b w1 w2 : Byte) (h1 l1 h2 l2 h3 l3 : Nat) (rest : List EdgeIn) (s : State) (n : Nat),
    legalParams s.cfg = true → s.st = .idleU → s.xq = false → (b = 0x44 ∨ b = 0x4D) →
    s.script = offerPins (.lc 0) :: (serve h1 l1 (.ok b) ++ serve h2 l2 (.ok w1) ++
      List.replicate (ponTicks s.cfg + 1) idlePins ++ serve h3 l3 (.ok w2) ++
      List.replicate (aenTicks s.cfg + 1) idlePins ++ rest) →
    n = (h1 + l1 + 2) + (h2 + l2 + 2) + (ponTicks s.cfg + 1) + (h3 + l3 + 2) + (aenTicks s.cfg + 1) →
    ∃ s1 m, exec .attach s = .next s1 ∧
      stateAfter n s1.advance = some
        { s with cport := .lc, chipId := b, pwr := .active, tmr := 0, st := .idleA,
                 rspValid := true, rspPort := .lc, rspStatus := .ok, rspXerr := 0x00, rspData := b.setWidth 64,
                 sensor := m, script := rest, edge := s.edge + (n + 1) } ∧
      issued n s1.advance = [.read s.cfg.aId, .write s.cfg.aEnable s.cfg.vPon,
        .write s.cfg.aEnable (s.cfg.vPon ||| s.cfg.vAen)] ∧
      Memory.read m s.cfg.aEnable.toNat = some (s.cfg.vPon ||| s.cfg.vAen) ∧
      ∀ k, k ≠ s.cfg.aEnable.toNat → Memory.read m k = Memory.read s.sensor k

/-- 41_lifecycle.md R201, R205: DETACH, accepted in IDLE_A or in FAILED with the power on and answered in any way at any time,
writes 0x00 to the enable register once and ends in IDLE_U with the handle released. -/
def Obligations.DetachCompletesWhateverItsWriteReturns : Prop :=
  ∀ (r : XResult) (hold late : Nat) (rest : List EdgeIn) (s : State),
    legalParams s.cfg = true → (s.st = .idleA ∨ (s.st = .idleF ∧ s.pwr ≠ .off)) → s.xq = false →
    s.script = offerPins (.lc 1) :: (serve hold late r ++ rest) →
    ∃ s1 m, exec .detach s = .next s1 ∧
      stateAfter (hold + late + 2) s1.advance = some
        { s with cport := .lc, pwr := .off, fail := .none, fxerr := 0x00, chipId := 0x00, st := .idleU,
                 rspValid := true, rspPort := .lc,
                 rspStatus := (match r with | .ok _ => .ok | .err _ => .transport),
                 rspXerr := (match r with | .ok _ => 0x00 | .err e => e), rspData := 0,
                 sensor := m, script := rest, edge := s.edge + (hold + late + 3) } ∧
      issued (hold + late + 2) s1.advance = [.write s.cfg.aEnable 0x00] ∧
      (∀ b, r = .ok b → Memory.read m s.cfg.aEnable.toNat = some 0x00) ∧
      ∀ k, k ≠ s.cfg.aEnable.toNat → Memory.read m k = Memory.read s.sensor k

/-! ### Invariants, frames and whole-machine rules -/

/-- The reset state is a legal state. -/
def Obligations.ResetMeetsTheInvariant : Prop := State.reset.Inv

/-- Every edge from a legal state leads to a legal state, whatever the host, the adapter and the reset source do. -/
def Obligations.EveryStepKeepsTheInvariant : Prop :=
  ∀ s t : State, s.Inv → step s = .next t → t.Inv

/-- The sensor memory stays in canonical form at every edge from any state. -/
def Obligations.EveryStepKeepsTheSensorMemoryCanonical : Prop :=
  ∀ s t : State, Memory.wf s.sensor = true → step s = .next t → Memory.wf t.sensor = true

/-- Every sensor byte reads as before except the one the state's own write transaction addresses; after the completion of a
write with success that one reads the byte written (20_memory.md R93, R97). The model's memory convention is log entry 6. -/
def Obligations.OnlyTheAddressedSensorByteChanges : Prop :=
  ∀ s t : State, step s = .next t →
    (∀ k : Nat, (∀ a v, xactOf s = some (.write a v) → k ≠ a.toNat) →
      Memory.read t.sensor k = Memory.read s.sensor k) ∧
    (∀ a v b, xactOf s = some (.write a v) → consumedAnswer s = some (.ok b) →
      Memory.read t.sensor a.toNat = some v)

/-- 20_memory.md R97, R103: no rule of the block depends on the sensor's bytes: with other bytes the edge is the same but
for the bytes. -/
def Obligations.TheBlockIgnoresTheSensorBytes : Prop :=
  ∀ (s : State) (m : Memory), ∃ m', step { s with sensor := m } = mapNext (fun t => { t with sensor := m' }) (step s)

/-- 10_state.md R38: `pwr` changes only so, and is never 0b10. -/
def Obligations.PowerStateChangesOnlyByTheEnableWrites : Prop :=
  ∀ s t : State, step s = .next t →
    t.pwr.code =
      (if s.input.rst then 0b00
       else match s.st, consumedAnswer s with
        | .ponWr, some (.ok _) => 0b01
        | .aenWr, some (.ok _) => 0b11
        | .tdWr, some _ => 0b00
        | _, _ => s.pwr.code) ∧
    t.pwr.code ≠ 0b10

/-- 10_state.md R39: `fail` is written only when the attach sequence enters IDLE_F, and cleared only on the return to IDLE_U
and at reset. -/
def Obligations.FailureReasonIsWrittenOnlyByAttachAndRelease : Prop :=
  ∀ s t : State, step s = .next t → t.fail ≠ s.fail →
    (t.st = .idleF ∧ s.input.rst = false ∧ s.xq = true ∧
      ((s.st = .idRd ∧ (t.fail = .idMismatch ∨ t.fail = .idXt)) ∨ (s.st = .ponWr ∧ t.fail = .ponXt) ∨
        (s.st = .aenWr ∧ t.fail = .aenXt))) ∨
    (t.st = .idleU ∧ t.fail = .none)

/-- 44_request.md R278, 60_exceptions.md R301: while a REQ or SMP command is taken or runs, no handle register changes, and the
block stays in the idle state it was in or in lifecycle ACTIVE. -/
def Obligations.RequestsLeaveTheHandleAlone : Prop :=
  ∀ s t : State, step s = .next t → s.input.rst = false →
    (s.st.isIdle = true ∧ (s.input.reqValid = true ∨ s.input.smpValid = true)) ∨
      s.st = .rdLo ∨ s.st = .rdHi ∨ s.st = .cfgWr →
    t.pwr = s.pwr ∧ t.fail = s.fail ∧ t.fxerr = s.fxerr ∧ t.chipId = s.chipId ∧
    lifecycleOf t = lifecycleOf s

/-- 41_lifecycle.md R194, 60_exceptions.md R306: in FAILED the handle registers keep their values, and only a DETACH taken at
the edge or a reset leads out of IDLE_F. -/
def Obligations.FailedIsLeftOnlyByDetachOrReset : Prop :=
  ∀ s t : State, s.st = .idleF → step s = .next t →
    (s.input.rst = false → offeredCommand s.input ≠ some .detach →
      t.st = .idleF ∧ t.fail = s.fail ∧ t.fxerr = s.fxerr ∧ t.chipId = s.chipId ∧ t.pwr = s.pwr)

/-- 60_exceptions.md R320: the timer is loaded only by the two enable writes and counts only in the waits. -/
def Obligations.TimerIsLoadedByEnableWritesOnly : Prop :=
  ∀ s t : State, step s = .next t → s.input.rst = false →
    t.tmr =
      (match s.st, consumedAnswer s with
        | .ponWr, some (.ok _) => BitVec.ofNat 32 (ponTicks s.cfg)
        | .aenWr, some (.ok _) => BitVec.ofNat 32 (aenTicks s.cfg)
        | .ponWait, _ => if s.tmr = 0 then 0 else s.tmr - 1
        | .aenWait, _ => if s.tmr = 0 then 0 else s.tmr - 1
        | _, _ => s.tmr)

/-- 10_state.md R55: a response is emitted exactly at the edges that end a command, one per command; at every other edge
without reset `rsp_valid` falls and the other response registers keep their values. -/
def Obligations.ResponsesComeExactlyWhenCommandsEnd : Prop :=
  ∀ s t : State, s.Inv → step s = .next t → s.input.rst = false →
    (t.rspValid = true ↔ t.st.isIdle = true ∧ (s.st.isIdle = false ∨ offeredCommand s.input ≠ none)) ∧
    (t.rspValid = false → t.rspPort = s.rspPort ∧ t.rspStatus = s.rspStatus ∧ t.rspXerr = s.rspXerr ∧
      t.rspData = s.rspData)

/-- 41_lifecycle.md R191: a wait entered with the count `n` ends at edge `n + 1`: the block stays in the wait for exactly
`n + 1` cycles and issues nothing in them; with the tick counts of R7 that is longer than the delay. -/
def Obligations.SettlingWaitLastsItsCountPlusOne : Prop :=
  ∀ s : State, legalParams s.cfg = true → (s.st = .ponWait ∨ s.st = .aenWait) → noReset (s.tmr.toNat + 1) s →
    (∀ k, k ≤ s.tmr.toNat → ∃ u, stateAfter k s = some u ∧ u.st = s.st) ∧
    (∃ t, stateAfter (s.tmr.toNat + 1) s = some t ∧
      (s.st = .ponWait → t.st = .aenWr) ∧ (s.st = .aenWait → t.st = .idleA ∧ t.rspValid = true)) ∧
    issued (s.tmr.toNat + 1) s = [] ∧
    s.cfg.tPonMs * s.cfg.fClkHz < 1000 * (ponTicks s.cfg + 1) ∧
    s.cfg.tAenMs * s.cfg.fClkHz < 1000 * (aenTicks s.cfg + 1)

/-- 41_lifecycle.md R188, 20_memory.md R99: from the accept edge of an ATTACH on, as long as it runs and whatever the adapter
does, the transactions issued are a first part of [read identity, write PON, write PON|AEN]; the second only after an
accepted identity byte, the third only after the second completed with success and the whole first settling delay
has passed since: with fewer than two answers after `k` edges there is no third transaction in the next
`PON_TICKS + 2`. -/
def Obligations.EnableWritesComeInOrderAfterTheIdentity : Prop :=
  ∀ (n : Nat) (s : State), legalParams s.cfg = true → s.st = .idRd → s.xq = false → noReset n s → busyFor n s →
    issued n s <+: [.read s.cfg.aId, .write s.cfg.aEnable s.cfg.vPon,
      .write s.cfg.aEnable (s.cfg.vPon ||| s.cfg.vAen)] ∧
    (2 ≤ (issued n s).length → ∃ b rest, consumed n s = .ok b :: rest ∧ (b = 0x44 ∨ b = 0x4D)) ∧
    ((issued n s).length = 3 → ∃ b w rest, consumed n s = .ok b :: .ok w :: rest) ∧
    (∀ k, k + ponTicks s.cfg + 2 ≤ n → (consumed k s).length < 2 → (issued (k + ponTicks s.cfg + 2) s).length < 3)

/-- 42_sample.md R233, R231, at transaction level: a SAMPLE that answers OK read all eight bytes in order; one whose `k`-th
read fails read exactly the first `k`, answers that read's code and no data. -/
def Obligations.SampleIsAllOrNothing : Prop :=
  ∀ (s : State) (rs : Answers) (e : TxEnd), s.st = .idleA → txRun .sample s rs = some e →
    e.issued = (sampleReads s.cfg).take rs.length ∧ e.state.st = .idleA ∧
    (((∀ r ∈ rs, ∃ b, r = .ok b) ∧ rs.length = 8 ∧ e.state.rspStatus = .ok ∧ e.state.rspXerr = 0x00 ∧
        e.state.rspData = sampleData e.state.buf.clear e.state.buf.red e.state.buf.green e.state.buf.blue) ∨
     (∃ front err, rs = front ++ [.err err] ∧ (∀ r ∈ front, ∃ b, r = .ok b) ∧ front.length < 8 ∧
        e.state.rspStatus = .transport ∧ e.state.rspXerr = err ∧ e.state.rspData = 0))

/-- 10_state.md R56: forgetting cycles, the run of a command from its accept edge to its response is its transaction-level
pseudocode: for every command, every adapter timing and every answer, when the block is next idle, its registers and
sensor bytes are those of the pseudocode on the answers consumed, and the transactions issued are its transactions. That
the pseudocode's `wait` leaves the timer at 0 is DEDUCED (log entry 17); what a write leaves in the sensor bytes is the
model's convention on both levels (log entry 6). -/
def Obligations.ClockedRunRefinesThePseudocode : Prop :=
  ∀ (n : Nat) (i : Instr) (s s1 t : State), s.Inv → s.st.isIdle = true → noReset (n + 1) s →
    offeredCommand s.input = some i → exec i s = .next s1 →
    busyFor n s1.advance → stateAfter n s1.advance = some t → t.st.isIdle = true →
    ∃ e, txRun i s (consumed n s1.advance) = some e ∧ e.issued = issued n s1.advance ∧ sameBlock e.state t

/-! ### Output pins and held commands -/

/-- 30_encoding.md R127, R128, 10_state.md R31, R35, R38, R39, 60_exceptions.md R325: the response pins and the status pins, with
the code of every value; no unused code is ever output. -/
def Obligations.OutputPinsShowTheRegistersCodes : Prop :=
  ∀ s : State,
    ((outputs s).rspValid = s.rspValid ∧ (outputs s).rspXerr = s.rspXerr ∧ (outputs s).rspData = s.rspData) ∧
    ((s.rspPort = .req → (outputs s).rspPort = 0) ∧ (s.rspPort = .smp → (outputs s).rspPort = 1) ∧
      (s.rspPort = .lc → (outputs s).rspPort = 2) ∧ (outputs s).rspPort ≠ 3) ∧
    ((s.rspStatus = .ok → (outputs s).rspStatus = 0) ∧ (s.rspStatus = .transport → (outputs s).rspStatus = 1) ∧
      (s.rspStatus = .unrecognized → (outputs s).rspStatus = 2) ∧ (s.rspStatus = .invalid → (outputs s).rspStatus = 3) ∧
      (s.rspStatus = .notReady → (outputs s).rspStatus = 4) ∧ (outputs s).rspStatus.toNat ≤ 4) ∧
    ((s.fail = .none → (outputs s).stFail = 0) ∧ (s.fail = .idMismatch → (outputs s).stFail = 1) ∧
      (s.fail = .idXt → (outputs s).stFail = 2) ∧ (s.fail = .ponXt → (outputs s).stFail = 3) ∧
      (s.fail = .aenXt → (outputs s).stFail = 4) ∧ (outputs s).stFail.toNat ≤ 4) ∧
    ((s.pwr = .off → (outputs s).stPwr = 0b00) ∧ (s.pwr = .powered → (outputs s).stPwr = 0b01) ∧
      (s.pwr = .active → (outputs s).stPwr = 0b11) ∧ (outputs s).stPwr ≠ 0b10) ∧
    (outputs s).stChipId = s.chipId ∧
    ((outputs s).stBusy = false ↔ s.st = .idleU ∨ s.st = .idleA ∨ s.st = .idleF)

/-- 60_exceptions.md R335, 10_state.md R51: a command held by its port while the host keeps its payload stable is, at the edge
at which the port takes it, the command first offered. The host may take a
`valid` back, and the command is then not held. -/
def Obligations.HeldCommandIsTakenAsFirstOffered : Prop :=
  ∀ (n : Nat) (s t : State), stateAfter n s = some t → legalParams t.cfg = true →
    (heldFor (fun u => u.input.reqValid) reqReady n s → s.input.reqValid = true → reqReady t = true →
      step t = mapNext State.advance (exec (decodeReq s.input.reqWord) t)) ∧
    (heldFor (fun u => u.input.lcValid) lcReady n s → s.input.lcValid = true → lcReady t = true →
      step t = mapNext State.advance (exec (decodeLc s.input.lcOp) t))
end

