-- ==== Sys2Proof/Laws/State.lean ====
section
/-! SUPPORT. One lemma per field and per named update of the state. -/

namespace Sys2Proof.Machine

@[simp] theorem quiet_cfg (s : State) : (quiet s).cfg = s.cfg := rfl
@[simp] theorem quiet_st (s : State) : (quiet s).st = s.st := rfl
@[simp] theorem quiet_xq (s : State) : (quiet s).xq = s.xq := rfl
@[simp] theorem quiet_pwr (s : State) : (quiet s).pwr = s.pwr := rfl
@[simp] theorem quiet_fail (s : State) : (quiet s).fail = s.fail := rfl
@[simp] theorem quiet_fxerr (s : State) : (quiet s).fxerr = s.fxerr := rfl
@[simp] theorem quiet_chipId (s : State) : (quiet s).chipId = s.chipId := rfl
@[simp] theorem quiet_tmr (s : State) : (quiet s).tmr = s.tmr := rfl
@[simp] theorem quiet_cport (s : State) : (quiet s).cport = s.cport := rfl
@[simp] theorem quiet_cop (s : State) : (quiet s).cop = s.cop := rfl
@[simp] theorem quiet_carg (s : State) : (quiet s).carg = s.carg := rfl
@[simp] theorem quiet_ch (s : State) : (quiet s).ch = s.ch := rfl
@[simp] theorem quiet_lo (s : State) : (quiet s).lo = s.lo := rfl
@[simp] theorem quiet_buf (s : State) : (quiet s).buf = s.buf := rfl
@[simp] theorem quiet_rspValid (s : State) : (quiet s).rspValid = false := rfl
@[simp] theorem quiet_rspPort (s : State) : (quiet s).rspPort = s.rspPort := rfl
@[simp] theorem quiet_rspStatus (s : State) : (quiet s).rspStatus = s.rspStatus := rfl
@[simp] theorem quiet_rspXerr (s : State) : (quiet s).rspXerr = s.rspXerr := rfl
@[simp] theorem quiet_rspData (s : State) : (quiet s).rspData = s.rspData := rfl
@[simp] theorem quiet_sensor (s : State) : (quiet s).sensor = s.sensor := rfl
@[simp] theorem quiet_script (s : State) : (quiet s).script = s.script := rfl
@[simp] theorem quiet_edge (s : State) : (quiet s).edge = s.edge := rfl

@[simp] theorem respond_cfg (p : Port) (c : Status) (e : Byte) (d : Wide) (s : State) : (respond p c e d s).cfg = s.cfg := rfl
@[simp] theorem respond_st (p : Port) (c : Status) (e : Byte) (d : Wide) (s : State) : (respond p c e d s).st = s.st := rfl
@[simp] theorem respond_xq (p : Port) (c : Status) (e : Byte) (d : Wide) (s : State) : (respond p c e d s).xq = s.xq := rfl
@[simp] theorem respond_pwr (p : Port) (c : Status) (e : Byte) (d : Wide) (s : State) : (respond p c e d s).pwr = s.pwr := rfl
@[simp] theorem respond_fail (p : Port) (c : Status) (e : Byte) (d : Wide) (s : State) : (respond p c e d s).fail = s.fail := rfl
@[simp] theorem respond_fxerr (p : Port) (c : Status) (e : Byte) (d : Wide) (s : State) : (respond p c e d s).fxerr = s.fxerr := rfl
@[simp] theorem respond_chipId (p : Port) (c : Status) (e : Byte) (d : Wide) (s : State) : (respond p c e d s).chipId = s.chipId := rfl
@[simp] theorem respond_tmr (p : Port) (c : Status) (e : Byte) (d : Wide) (s : State) : (respond p c e d s).tmr = s.tmr := rfl
@[simp] theorem respond_cport (p : Port) (c : Status) (e : Byte) (d : Wide) (s : State) : (respond p c e d s).cport = s.cport := rfl
@[simp] theorem respond_cop (p : Port) (c : Status) (e : Byte) (d : Wide) (s : State) : (respond p c e d s).cop = s.cop := rfl
@[simp] theorem respond_carg (p : Port) (c : Status) (e : Byte) (d : Wide) (s : State) : (respond p c e d s).carg = s.carg := rfl
@[simp] theorem respond_ch (p : Port) (c : Status) (e : Byte) (d : Wide) (s : State) : (respond p c e d s).ch = s.ch := rfl
@[simp] theorem respond_lo (p : Port) (c : Status) (e : Byte) (d : Wide) (s : State) : (respond p c e d s).lo = s.lo := rfl
@[simp] theorem respond_buf (p : Port) (c : Status) (e : Byte) (d : Wide) (s : State) : (respond p c e d s).buf = s.buf := rfl
@[simp] theorem respond_rspValid (p : Port) (c : Status) (e : Byte) (d : Wide) (s : State) : (respond p c e d s).rspValid = true := rfl
@[simp] theorem respond_rspPort (p : Port) (c : Status) (e : Byte) (d : Wide) (s : State) : (respond p c e d s).rspPort = p := rfl
@[simp] theorem respond_rspStatus (p : Port) (c : Status) (e : Byte) (d : Wide) (s : State) : (respond p c e d s).rspStatus = c := rfl
@[simp] theorem respond_rspXerr (p : Port) (c : Status) (e : Byte) (d : Wide) (s : State) : (respond p c e d s).rspXerr = e := rfl
@[simp] theorem respond_rspData (p : Port) (c : Status) (e : Byte) (d : Wide) (s : State) : (respond p c e d s).rspData = d := rfl
@[simp] theorem respond_sensor (p : Port) (c : Status) (e : Byte) (d : Wide) (s : State) : (respond p c e d s).sensor = s.sensor := rfl
@[simp] theorem respond_script (p : Port) (c : Status) (e : Byte) (d : Wide) (s : State) : (respond p c e d s).script = s.script := rfl
@[simp] theorem respond_edge (p : Port) (c : Status) (e : Byte) (d : Wide) (s : State) : (respond p c e d s).edge = s.edge := rfl

@[simp] theorem advance_cfg (s : State) : (State.advance s).cfg = s.cfg := rfl
@[simp] theorem advance_st (s : State) : (State.advance s).st = s.st := rfl
@[simp] theorem advance_xq (s : State) : (State.advance s).xq = s.xq := rfl
@[simp] theorem advance_pwr (s : State) : (State.advance s).pwr = s.pwr := rfl
@[simp] theorem advance_fail (s : State) : (State.advance s).fail = s.fail := rfl
@[simp] theorem advance_fxerr (s : State) : (State.advance s).fxerr = s.fxerr := rfl
@[simp] theorem advance_chipId (s : State) : (State.advance s).chipId = s.chipId := rfl
@[simp] theorem advance_tmr (s : State) : (State.advance s).tmr = s.tmr := rfl
@[simp] theorem advance_cport (s : State) : (State.advance s).cport = s.cport := rfl
@[simp] theorem advance_cop (s : State) : (State.advance s).cop = s.cop := rfl
@[simp] theorem advance_carg (s : State) : (State.advance s).carg = s.carg := rfl
@[simp] theorem advance_ch (s : State) : (State.advance s).ch = s.ch := rfl
@[simp] theorem advance_lo (s : State) : (State.advance s).lo = s.lo := rfl
@[simp] theorem advance_buf (s : State) : (State.advance s).buf = s.buf := rfl
@[simp] theorem advance_rspValid (s : State) : (State.advance s).rspValid = s.rspValid := rfl
@[simp] theorem advance_rspPort (s : State) : (State.advance s).rspPort = s.rspPort := rfl
@[simp] theorem advance_rspStatus (s : State) : (State.advance s).rspStatus = s.rspStatus := rfl
@[simp] theorem advance_rspXerr (s : State) : (State.advance s).rspXerr = s.rspXerr := rfl
@[simp] theorem advance_rspData (s : State) : (State.advance s).rspData = s.rspData := rfl
@[simp] theorem advance_sensor (s : State) : (State.advance s).sensor = s.sensor := rfl
@[simp] theorem advance_script (s : State) : (State.advance s).script = s.script.tail := rfl
@[simp] theorem advance_edge (s : State) : (State.advance s).edge = s.edge + 1 := rfl

@[simp] theorem release_cfg (s : State) : (release s).cfg = s.cfg := rfl
@[simp] theorem release_st (s : State) : (release s).st = .idleU := rfl
@[simp] theorem release_xq (s : State) : (release s).xq = s.xq := rfl
@[simp] theorem release_pwr (s : State) : (release s).pwr = s.pwr := rfl
@[simp] theorem release_fail (s : State) : (release s).fail = .none := rfl
@[simp] theorem release_fxerr (s : State) : (release s).fxerr = 0 := rfl
@[simp] theorem release_chipId (s : State) : (release s).chipId = 0 := rfl
@[simp] theorem release_tmr (s : State) : (release s).tmr = s.tmr := rfl
@[simp] theorem release_cport (s : State) : (release s).cport = s.cport := rfl
@[simp] theorem release_cop (s : State) : (release s).cop = s.cop := rfl
@[simp] theorem release_carg (s : State) : (release s).carg = s.carg := rfl
@[simp] theorem release_ch (s : State) : (release s).ch = s.ch := rfl
@[simp] theorem release_lo (s : State) : (release s).lo = s.lo := rfl
@[simp] theorem release_buf (s : State) : (release s).buf = s.buf := rfl
@[simp] theorem release_rspValid (s : State) : (release s).rspValid = s.rspValid := rfl
@[simp] theorem release_rspPort (s : State) : (release s).rspPort = s.rspPort := rfl
@[simp] theorem release_rspStatus (s : State) : (release s).rspStatus = s.rspStatus := rfl
@[simp] theorem release_rspXerr (s : State) : (release s).rspXerr = s.rspXerr := rfl
@[simp] theorem release_rspData (s : State) : (release s).rspData = s.rspData := rfl
@[simp] theorem release_sensor (s : State) : (release s).sensor = s.sensor := rfl
@[simp] theorem release_script (s : State) : (release s).script = s.script := rfl
@[simp] theorem release_edge (s : State) : (release s).edge = s.edge := rfl

@[simp] theorem enterFailed_cfg (r : FailReason) (s : State) : (enterFailed r s).cfg = s.cfg := rfl
@[simp] theorem enterFailed_st (r : FailReason) (s : State) : (enterFailed r s).st = .idleF := rfl
@[simp] theorem enterFailed_xq (r : FailReason) (s : State) : (enterFailed r s).xq = s.xq := rfl
@[simp] theorem enterFailed_pwr (r : FailReason) (s : State) : (enterFailed r s).pwr = s.pwr := rfl
@[simp] theorem enterFailed_fail (r : FailReason) (s : State) : (enterFailed r s).fail = r := rfl
@[simp] theorem enterFailed_fxerr (r : FailReason) (s : State) : (enterFailed r s).fxerr = s.fxerr := rfl
@[simp] theorem enterFailed_chipId (r : FailReason) (s : State) : (enterFailed r s).chipId = s.chipId := rfl
@[simp] theorem enterFailed_tmr (r : FailReason) (s : State) : (enterFailed r s).tmr = s.tmr := rfl
@[simp] theorem enterFailed_cport (r : FailReason) (s : State) : (enterFailed r s).cport = s.cport := rfl
@[simp] theorem enterFailed_cop (r : FailReason) (s : State) : (enterFailed r s).cop = s.cop := rfl
@[simp] theorem enterFailed_carg (r : FailReason) (s : State) : (enterFailed r s).carg = s.carg := rfl
@[simp] theorem enterFailed_ch (r : FailReason) (s : State) : (enterFailed r s).ch = s.ch := rfl
@[simp] theorem enterFailed_lo (r : FailReason) (s : State) : (enterFailed r s).lo = s.lo := rfl
@[simp] theorem enterFailed_buf (r : FailReason) (s : State) : (enterFailed r s).buf = s.buf := rfl
@[simp] theorem enterFailed_rspValid (r : FailReason) (s : State) : (enterFailed r s).rspValid = s.rspValid := rfl
@[simp] theorem enterFailed_rspPort (r : FailReason) (s : State) : (enterFailed r s).rspPort = s.rspPort := rfl
@[simp] theorem enterFailed_rspStatus (r : FailReason) (s : State) : (enterFailed r s).rspStatus = s.rspStatus := rfl
@[simp] theorem enterFailed_rspXerr (r : FailReason) (s : State) : (enterFailed r s).rspXerr = s.rspXerr := rfl
@[simp] theorem enterFailed_rspData (r : FailReason) (s : State) : (enterFailed r s).rspData = s.rspData := rfl
@[simp] theorem enterFailed_sensor (r : FailReason) (s : State) : (enterFailed r s).sensor = s.sensor := rfl
@[simp] theorem enterFailed_script (r : FailReason) (s : State) : (enterFailed r s).script = s.script := rfl
@[simp] theorem enterFailed_edge (r : FailReason) (s : State) : (enterFailed r s).edge = s.edge := rfl

end Sys2Proof.Machine
end

