-- ==== Sys2Proof/Laws/Edge.lean ====
section
/-! SUPPORT. What one edge can do, said once: the forms of `exec`, the cases of `step`, and the cases of the transaction arm. -/

namespace Sys2Proof.Machine

/-- The accept rule of each command (10_state.md R51): what its transfer edge does in an idle state. -/
def acceptOf : Instr → State → State
  | .readc arg => acceptRead .clear 0x01 arg
  | .readr arg => acceptRead .red 0x02 arg
  | .readg arg => acceptRead .green 0x03 arg
  | .readb arg => acceptRead .blue 0x04 arg
  | .setgain arg => acceptConfig 0x05 arg
  | .setatime arg => acceptConfig 0x06 arg
  | .invalidOp _ _ => respond .req .invalid 0x00 0
  | .sample => acceptSample
  | .attach => acceptAttach
  | .detach => acceptDetach

theorem exec_eq (i : Instr) (s : State) : exec i s = commandEdge (acceptOf i) s := by cases i <;> rfl

/-- In an idle state the command is taken: its accept rule runs. -/
theorem exec_idle (i : Instr) (s : State) (h : s.st.isIdle = true) : exec i s = .next (acceptOf i s) := by
  rw [exec_eq, commandEdge, if_pos h]

/-- Outside IDLE the command is held: the edge is that of the command in progress. -/
theorem exec_busy (i : Instr) (s : State) (h : s.st.isIdle = false) : exec i s = .next (busyEdge s) := by
  rw [exec_eq, commandEdge, h]; rfl

theorem mapNext_next (f : State → State) (s : State) : mapNext f (.next s) = .next (f s) := rfl

/-- Everything a step can do. -/
theorem step_cases {s t : State} (h : step s = .next t) :
    legalParams s.cfg = true ∧
    ((s.input.rst = true ∧ t = (resetEdge s).advance) ∨
     (s.input.rst = false ∧ s.st.isIdle = false ∧ t = (busyEdge s).advance) ∨
     (s.input.rst = false ∧ s.st.isIdle = true ∧ offeredCommand s.input = none ∧ t = (quiet s).advance) ∨
     (∃ i, s.input.rst = false ∧ s.st.isIdle = true ∧ offeredCommand s.input = some i ∧
        t = (acceptOf i s).advance)) := by
  unfold step at h
  split at h
  · cases h
  · rename_i hl
    refine ⟨by simpa using hl, ?_⟩
    split at h
    · rename_i hr; cases h; exact .inl ⟨hr, rfl⟩
    · rename_i hr
      have hr : s.input.rst = false := by simpa using hr
      by_cases hi : s.st.isIdle = true
      · cases ho : offeredCommand s.input with
        | none =>
          simp only [ho, noCommandEdge, hi, if_true] at h
          cases h
          exact .inr (.inr (.inl ⟨hr, hi, rfl, rfl⟩))
        | some i =>
          simp only [ho, exec_idle i s hi, mapNext_next] at h
          cases h
          exact .inr (.inr (.inr ⟨i, hr, hi, rfl, rfl⟩))
      · have hi : s.st.isIdle = false := by simpa using hi
        cases ho : offeredCommand s.input with
        | none =>
          simp only [ho, noCommandEdge, hi] at h
          cases h
          exact .inr (.inl ⟨hr, hi, rfl⟩)
        | some i =>
          simp only [ho, exec_busy i s hi, mapNext_next] at h
          cases h
          exact .inr (.inl ⟨hr, hi, rfl⟩)

/-- The edge in a busy state, whatever is offered. -/
theorem step_busy {s : State} (hl : legalParams s.cfg = true) (hr : s.input.rst = false)
    (hi : s.st.isIdle = false) : step s = .next (busyEdge s).advance := by
  unfold step
  rw [if_neg (by simp [hl]), if_neg (by simp [hr])]
  cases ho : offeredCommand s.input with
  | none => simp [noCommandEdge, hi]
  | some i => simp [exec_busy i s hi, mapNext_next]

/-- The edge at which a command is taken. -/
theorem step_taken {s : State} {i : Instr} (hl : legalParams s.cfg = true) (hr : s.input.rst = false)
    (hi : s.st.isIdle = true) (ho : offeredCommand s.input = some i) :
    step s = .next (acceptOf i s).advance := by
  unfold step
  rw [if_neg (by simp [hl]), if_neg (by simp [hr]), ho]
  simp [exec_idle i s hi, mapNext_next]

/-- The reset edge. -/
theorem step_reset {s : State} (hl : legalParams s.cfg = true) (hr : s.input.rst = true) :
    step s = .next (resetEdge s).advance := by
  unfold step
  rw [if_neg (by simp [hl]), if_pos hr]

/-- A state performs a transaction exactly when it is a transaction state. -/
theorem xactOf_isSome (s : State) : (xactOf s).isSome = s.st.isXfer := by
  unfold xactOf; cases s.st <;> rfl

theorem xactOf_some {s : State} (h : s.st.isXfer = true) : ∃ x, xactOf s = some x :=
  Option.isSome_iff_exists.mp (by rw [xactOf_isSome, h])

/-- The busy edge in a transaction state is the transaction arm. -/
theorem busyEdge_xfer {s : State} {x : Xact} (h : xactOf s = some x) : busyEdge s = xferEdge x s := by
  unfold busyEdge; rw [h]

theorem isIdle_of_xactOf {s : State} {x : Xact} (h : xactOf s = some x) : s.st.isIdle = false := by
  unfold xactOf at h; revert h; cases s.st <;> simp [Fsm.isIdle]

end Sys2Proof.Machine
end

