-- ==== Sys2Proof/Laws/Completion.lean ====
section
/-! SUPPORT. What a completion edge and an accept rule do to each handle register and to the FSM state, said once. -/

namespace Sys2Proof.Machine

theorem completeXact_xq (r : XResult) (s : State) : (completeXact r s).xq = s.xq := by
  rcases s with ⟨cfg, st, xq, pwr, fail, fxerr, chipId, tmr, cport, cop, carg, ch, lo, buf, rv, rp, rs, rx, rd, _, _, _⟩
  cases st <;> cases r <;> try rfl
  · simp only [completeXact, doneIdRd]; split <;> rfl
  · cases cport <;> cases ch <;> rfl

theorem completeXact_cfg (r : XResult) (s : State) : (completeXact r s).cfg = s.cfg := by
  rcases s with ⟨cfg, st, xq, pwr, fail, fxerr, chipId, tmr, cport, cop, carg, ch, lo, buf, rv, rp, rs, rx, rd, _, _, _⟩
  cases st <;> cases r <;> try rfl
  · simp only [completeXact, doneIdRd]; split <;> rfl
  · cases cport <;> cases ch <;> rfl

/-- 10_state.md R38. -/
theorem completeXact_pwr (r : XResult) (s : State) :
    (completeXact r s).pwr =
      (match s.st, r with
        | .ponWr, .ok _ => .powered
        | .aenWr, .ok _ => .active
        | .tdWr, _ => .off
        | _, _ => s.pwr) := by
  rcases s with ⟨cfg, st, xq, pwr, fail, fxerr, chipId, tmr, cport, cop, carg, ch, lo, buf, rv, rp, rs, rx, rd, _, _, _⟩
  cases st <;> cases r <;> try rfl
  · simp only [completeXact, doneIdRd]; split <;> rfl
  · cases cport <;> cases ch <;> rfl

/-- 60_exceptions.md R320. -/
theorem completeXact_tmr (r : XResult) (s : State) :
    (completeXact r s).tmr =
      (match s.st, r with
        | .ponWr, .ok _ => BitVec.ofNat 32 (ponTicks s.cfg)
        | .aenWr, .ok _ => BitVec.ofNat 32 (aenTicks s.cfg)
        | _, _ => s.tmr) := by
  rcases s with ⟨cfg, st, xq, pwr, fail, fxerr, chipId, tmr, cport, cop, carg, ch, lo, buf, rv, rp, rs, rx, rd, _, _, _⟩
  cases st <;> cases r <;> try rfl
  · simp only [completeXact, doneIdRd]; split <;> rfl
  · cases cport <;> cases ch <;> rfl

/-- 10_state.md R39. -/
theorem completeXact_fail (r : XResult) (s : State) :
    (completeXact r s).fail =
      (match s.st, r with
        | .idRd, .ok b => if idAccepted b then s.fail else .idMismatch
        | .idRd, .err _ => .idXt
        | .ponWr, .err _ => .ponXt
        | .aenWr, .err _ => .aenXt
        | .tdWr, _ => .none
        | _, _ => s.fail) := by
  rcases s with ⟨cfg, st, xq, pwr, fail, fxerr, chipId, tmr, cport, cop, carg, ch, lo, buf, rv, rp, rs, rx, rd, _, _, _⟩
  cases st <;> cases r <;> try rfl
  · simp only [completeXact, doneIdRd]; split <;> rfl
  · cases cport <;> cases ch <;> rfl

theorem completeXact_fxerr (r : XResult) (s : State) :
    (completeXact r s).fxerr =
      (match s.st, r with
        | .idRd, .err e => e
        | .ponWr, .err e => e
        | .aenWr, .err e => e
        | .tdWr, _ => 0
        | _, _ => s.fxerr) := by
  rcases s with ⟨cfg, st, xq, pwr, fail, fxerr, chipId, tmr, cport, cop, carg, ch, lo, buf, rv, rp, rs, rx, rd, _, _, _⟩
  cases st <;> cases r <;> try rfl
  · simp only [completeXact, doneIdRd]; split <;> rfl
  · cases cport <;> cases ch <;> rfl

theorem completeXact_chipId (r : XResult) (s : State) :
    (completeXact r s).chipId =
      (match s.st, r with
        | .idRd, .ok b => b
        | .tdWr, _ => 0
        | _, _ => s.chipId) := by
  rcases s with ⟨cfg, st, xq, pwr, fail, fxerr, chipId, tmr, cport, cop, carg, ch, lo, buf, rv, rp, rs, rx, rd, _, _, _⟩
  cases st <;> cases r <;> try rfl
  · simp only [completeXact, doneIdRd]; split <;> rfl
  · cases cport <;> cases ch <;> rfl

/-- Where a completion edge goes (10_state.md R34). -/
theorem completeXact_st (r : XResult) (s : State) :
    (completeXact r s).st =
      (match s.st, r with
        | .idRd, .ok b => if idAccepted b then .ponWr else .idleF
        | .ponWr, .ok _ => .ponWait
        | .aenWr, .ok _ => .aenWait
        | .rdLo, .ok _ => .rdHi
        | .rdHi, .ok _ => if s.cport = .smp ∧ s.ch ≠ .blue then .rdLo else .idleA
        | .cfgWr, .ok _ => .idleA
        | .tdWr, _ => .idleU
        | .idRd, .err _ => .idleF
        | .ponWr, .err _ => .idleF
        | .aenWr, .err _ => .idleF
        | .rdLo, .err _ => .idleA
        | .rdHi, .err _ => .idleA
        | .cfgWr, .err _ => .idleA
        | _, _ => s.st) := by
  rcases s with ⟨cfg, st, xq, pwr, fail, fxerr, chipId, tmr, cport, cop, carg, ch, lo, buf, rv, rp, rs, rx, rd, _, _, _⟩
  cases st <;> cases r <;> try rfl
  · simp only [completeXact, doneIdRd]; split <;> rfl
  · cases cport <;> cases ch <;> rfl

/-- A completion edge in a transaction state responds exactly when it ends the command (10_state.md R55). -/
theorem completeXact_rspValid (r : XResult) (s : State) (hx : s.st.isXfer = true) :
    (completeXact r (quiet s)).rspValid = (completeXact r (quiet s)).st.isIdle := by
  rcases s with ⟨cfg, st, xq, pwr, fail, fxerr, chipId, tmr, cport, cop, carg, ch, lo, buf, rv, rp, rs, rx, rd, _, _, _⟩
  cases st <;> cases r <;> first | rfl | cases hx
  · simp only [completeXact, doneIdRd, quiet]; split <;> rfl
  · cases cport <;> cases ch <;> rfl

/-- An accept rule writes none of these. -/
theorem acceptOf_frame (i : Instr) (s : State) :
    (acceptOf i s).cfg = s.cfg ∧ (acceptOf i s).xq = s.xq ∧ (acceptOf i s).pwr = s.pwr ∧
    (acceptOf i s).tmr = s.tmr ∧ (acceptOf i s).lo = s.lo ∧ (acceptOf i s).buf = s.buf := by
  rcases s with ⟨cfg, st, xq, pwr, fail, fxerr, chipId, tmr, cport, cop, carg, ch, lo, buf, rv, rp, rs, rx, rd, _, _, _⟩
  cases i <;> cases st <;> first | exact ⟨rfl, rfl, rfl, rfl, rfl, rfl⟩ | skip
  cases pwr <;> exact ⟨rfl, rfl, rfl, rfl, rfl, rfl⟩

/-- Only DETACH changes the handle registers or the lifecycle state at its accept edge (41_lifecycle.md R204). -/
theorem acceptOf_handle (i : Instr) (s : State) (h : i ≠ .detach) :
    (acceptOf i s).fail = s.fail ∧ (acceptOf i s).fxerr = s.fxerr ∧ (acceptOf i s).chipId = s.chipId ∧
    (s.st.isIdle = true → lifecycleOf (acceptOf i s) = lifecycleOf s) := by
  rcases s with ⟨cfg, st, xq, pwr, fail, fxerr, chipId, tmr, cport, cop, carg, ch, lo, buf, rv, rp, rs, rx, rd, _, _, _⟩
  cases i <;> cases st <;>
    first | exact absurd rfl h | exact ⟨rfl, rfl, rfl, fun _ => rfl⟩

/-- An accept rule responds exactly when the block stays idle (10_state.md R52, R55). -/
theorem acceptOf_rspValid (i : Instr) (s : State) (h : s.st.isIdle = true) :
    (acceptOf i s).rspValid = (acceptOf i s).st.isIdle := by
  rcases s with ⟨cfg, st, xq, pwr, fail, fxerr, chipId, tmr, cport, cop, carg, ch, lo, buf, rv, rp, rs, rx, rd, _, _, _⟩
  cases i <;> cases st <;> first | rfl | cases h
  cases pwr <;> rfl

end Sys2Proof.Machine
end

