-- ==== Sys2Proof/Laws/Memory.lean ====
section
/-! SUPPORT. The laws of the sensor memory: a read after a write, every other address as before, and the canonical form kept. -/

namespace Sys2Proof.Machine

theorem read_write_same (m : Memory) (a : Nat) (b : Byte) : Memory.read (Memory.write m a b) a = some b := by
  induction m with
  | nil => simp [Memory.write, Memory.read]
  | cons h m ih =>
    obtain ⟨k, c⟩ := h
    unfold Memory.write
    split
    · simp [Memory.read]
    · split
      · simp [Memory.read]
      · rename_i h2
        simp [Memory.read, Ne.symm h2, ih]

theorem read_write_other (m : Memory) (a k : Nat) (b : Byte) (h : k ≠ a) :
    Memory.read (Memory.write m a b) k = Memory.read m k := by
  induction m with
  | nil => simp [Memory.write, Memory.read, Ne.symm h]
  | cons p m ih =>
    obtain ⟨j, c⟩ := p
    unfold Memory.write
    split
    · simp [Memory.read, Ne.symm h]
    · split
      · rename_i h1
        subst h1
        simp [Memory.read, Ne.symm h]
      · simp [Memory.read, ih]

theorem read_erase_other (m : Memory) (a k : Nat) (h : k ≠ a) :
    Memory.read (Memory.erase m a) k = Memory.read m k := by
  induction m with
  | nil => rfl
  | cons p m ih =>
    obtain ⟨j, c⟩ := p
    unfold Memory.erase
    split
    · rename_i h1
      subst h1
      simp [Memory.read, Ne.symm h, ih]
    · simp [Memory.read, ih]

theorem read_erase_same (m : Memory) (a : Nat) : Memory.read (Memory.erase m a) a = none := by
  induction m with
  | nil => rfl
  | cons p m ih =>
    obtain ⟨j, c⟩ := p
    unfold Memory.erase
    split
    · exact ih
    · rename_i h1
      simp [Memory.read, h1, ih]

theorem risingFrom_weaken (m : Memory) (lo lo' : Option Nat) (h : Memory.risingFrom lo m = true)
    (hle : ∀ n, lo' = some n → ∃ k, lo = some k ∧ n ≤ k) : Memory.risingFrom lo' m = true := by
  cases m with
  | nil => rfl
  | cons p m =>
    cases lo' with
    | none => simp only [Memory.risingFrom, Bool.and_eq_true] at h ⊢; exact ⟨⟨trivial, h.1.2⟩, h.2⟩
    | some n =>
      obtain ⟨k, rfl, hk⟩ := hle n rfl
      simp only [Memory.risingFrom, Bool.and_eq_true, decide_eq_true_eq] at h ⊢
      exact ⟨⟨by omega, h.1.2⟩, h.2⟩

theorem risingFrom_write (m : Memory) (lo : Option Nat) (a : Nat) (b : Byte)
    (h : Memory.risingFrom lo m = true) (ha : a < 128) (hlo : ∀ n, lo = some n → n < a) :
    Memory.risingFrom lo (Memory.write m a b) = true := by
  induction m generalizing lo with
  | nil =>
    cases lo with
    | none => simp [Memory.write, Memory.risingFrom, ha]
    | some n => simp [Memory.write, Memory.risingFrom, ha, hlo n rfl]
  | cons p m ih =>
    obtain ⟨k, c⟩ := p
    have hk : k < 128 ∧ Memory.risingFrom (some k) m = true := by
      simp only [Memory.risingFrom, Bool.and_eq_true, decide_eq_true_eq] at h
      exact ⟨h.1.2, h.2⟩
    unfold Memory.write
    split
    · rename_i hlt
      cases lo with
      | none => simp [Memory.risingFrom, ha, hlt, hk]
      | some n => simp [Memory.risingFrom, ha, hlt, hk, hlo n rfl]
    · split
      · rename_i _ heq
        subst heq
        simp only [Memory.risingFrom, Bool.and_eq_true] at h ⊢
        exact h
      · have hrec := ih (some k) hk.2 (fun n hn => by cases hn; omega)
        simp only [Memory.risingFrom, Bool.and_eq_true] at h ⊢
        exact ⟨h.1, hrec⟩

theorem risingFrom_erase (m : Memory) (lo : Option Nat) (a : Nat) (h : Memory.risingFrom lo m = true) :
    Memory.risingFrom lo (Memory.erase m a) = true := by
  induction m generalizing lo with
  | nil => exact h
  | cons p m ih =>
    obtain ⟨k, c⟩ := p
    have h0 := h
    simp only [Memory.risingFrom, Bool.and_eq_true, decide_eq_true_eq] at h
    unfold Memory.erase
    split
    · refine risingFrom_weaken _ (some k) lo (ih _ h.2) ?_
      rintro n rfl
      exact ⟨k, rfl, by have := h.1.1; simp at this; omega⟩
    · simp only [Memory.risingFrom, Bool.and_eq_true, decide_eq_true_eq]
      exact ⟨h.1, ih _ h.2⟩

theorem wf_write (m : Memory) (a : RegAddr) (b : Byte) (h : Memory.wf m = true) :
    Memory.wf (Memory.write m a.toNat b) = true :=
  risingFrom_write m none a.toNat b h a.isLt (by simp)

theorem wf_erase (m : Memory) (a : Nat) (h : Memory.wf m = true) : Memory.wf (Memory.erase m a) = true :=
  risingFrom_erase m none a h

theorem wf_sensorStart (x : Xact) (m : Memory) (h : Memory.wf m = true) : Memory.wf (sensorStart x m) = true := by
  cases x with
  | read _ => exact h
  | write a _ => exact wf_erase m a.toNat h

theorem wf_sensorFinish (x : Xact) (r : XResult) (m : Memory) (h : Memory.wf m = true) :
    Memory.wf (sensorFinish x r m) = true := by
  cases x with
  | read _ => exact h
  | write a v =>
    cases r with
    | ok _ => exact wf_write m a v h
    | err _ => exact h

theorem wf_reset_sensor : Memory.wf State.reset.sensor = true := rfl

/-- A transaction leaves every sensor byte but the one it writes. -/
theorem read_sensorStart_other (x : Xact) (m : Memory) (k : Nat)
    (h : ∀ a v, x = .write a v → k ≠ a.toNat) : Memory.read (sensorStart x m) k = Memory.read m k := by
  cases x with
  | read _ => rfl
  | write a v => exact read_erase_other m a.toNat k (h a v rfl)

theorem read_sensorFinish_other (x : Xact) (r : XResult) (m : Memory) (k : Nat)
    (h : ∀ a v, x = .write a v → k ≠ a.toNat) : Memory.read (sensorFinish x r m) k = Memory.read m k := by
  cases x with
  | read _ => rfl
  | write a v =>
    cases r with
    | ok _ => exact read_write_other m a.toNat k v (h a v rfl)
    | err _ => rfl

end Sys2Proof.Machine
end

