-- ==== Sys2Proof/Laws/Environment.lean ====
section
/-! SUPPORT. The block's own operations neither read nor write its environment (the sensor bytes, the pins to come, the edge
count), and no operation writes the parameters: each commutes with replacing the environment. -/

namespace Sys2Proof.Machine

/-- The same block in another environment. -/
def State.withEnv (s : State) (m : Memory) (l : List EdgeIn) (n : Nat) : State :=
  { s with sensor := m, script := l, edge := n }

theorem State.withEnv_self (s : State) : s.withEnv s.sensor s.script s.edge = s := rfl

@[simp] theorem withEnv_withEnv (s : State) (m m' l l' n n') :
    (s.withEnv m l n).withEnv m' l' n' = s.withEnv m' l' n' := rfl

@[simp] theorem xactOf_withEnv (s : State) (m l n) : xactOf (s.withEnv m l n) = xactOf s := rfl

@[simp] theorem quiet_withEnv (s : State) (m l n) : quiet (s.withEnv m l n) = (quiet s).withEnv m l n := rfl

@[simp] theorem advance_withEnv (s : State) (m l n) :
    (s.withEnv m l n).advance = s.withEnv m l.tail (n + 1) := rfl

theorem completeXact_withEnv (r : XResult) (s : State) (m l n) :
    completeXact r (s.withEnv m l n) = (completeXact r s).withEnv m l n := by
  rcases s with ⟨cfg, st, xq, pwr, fail, fxerr, chipId, tmr, cport, cop, carg, ch, lo, buf, rv, rp, rs, rx, rd, _, _, _⟩
  cases st <;> cases r <;> try rfl
  · rename_i b
    simp only [completeXact, doneIdRd, State.withEnv]
    split <;> rfl
  · cases cport <;> cases ch <;> rfl

theorem acceptOf_withEnv (i : Instr) (s : State) (m l n) :
    acceptOf i (s.withEnv m l n) = (acceptOf i s).withEnv m l n := by
  rcases s with ⟨cfg, st, xq, pwr, fail, fxerr, chipId, tmr, cport, cop, carg, ch, lo, buf, rv, rp, rs, rx, rd, _, _, _⟩
  cases i <;> cases st <;> try rfl
  cases pwr <;> rfl

theorem completeXact_env (r : XResult) (s : State) :
    (completeXact r s).sensor = s.sensor ∧ (completeXact r s).script = s.script ∧
    (completeXact r s).edge = s.edge := by
  have h := completeXact_withEnv r s s.sensor s.script s.edge
  rw [State.withEnv_self] at h
  rw [h]
  exact ⟨rfl, rfl, rfl⟩

theorem acceptOf_env (i : Instr) (s : State) :
    (acceptOf i s).sensor = s.sensor ∧ (acceptOf i s).script = s.script ∧ (acceptOf i s).edge = s.edge := by
  have h := acceptOf_withEnv i s s.sensor s.script s.edge
  rw [State.withEnv_self] at h
  rw [h]
  exact ⟨rfl, rfl, rfl⟩

/-- Everything an edge in a busy state can be: the four cases of the transaction arm (10_state.md R53), the two waits, the
unused codes. -/
theorem busyEdge_cases (s : State) (hi : s.st.isIdle = false) :
    (∃ x, xactOf s = some x ∧ s.st.isXfer = true ∧
      ((s.xq = false ∧ s.input.xtReady = false ∧ busyEdge s = quiet s) ∨
       (s.xq = false ∧ s.input.xtReady = true ∧ busyEdge s = startXact x (quiet s)) ∨
       (s.xq = true ∧ s.input.xrValid = false ∧ busyEdge s = quiet s) ∨
       (s.xq = true ∧ s.input.xrValid = true ∧ busyEdge s = finishXact x (resultOf s.input) (quiet s)))) ∨
    (xactOf s = none ∧ s.st.isXfer = false ∧
      ((s.st = .ponWait ∧ busyEdge s = waitEdge (fun t => { t with st := .aenWr }) (quiet s)) ∨
       (s.st = .aenWait ∧ busyEdge s = waitEdge attachDone (quiet s)) ∨
       (s.st.isUnused = true ∧ busyEdge s = { quiet s with st := .idleU }))) := by
  have h := xactOf_isSome s
  cases hx : xactOf s with
  | some x =>
    rw [hx] at h
    refine .inl ⟨x, rfl, h.symm, ?_⟩
    rw [busyEdge_xfer hx]
    unfold xferEdge
    cases s.xq <;> cases s.input.xtReady <;> cases s.input.xrValid <;> simp
  | none =>
    rw [hx] at h
    refine .inr ⟨rfl, h.symm, ?_⟩
    unfold busyEdge
    rw [hx]
    cases hs : s.st <;> simp_all [Fsm.isXfer, Fsm.isUnused, Fsm.isIdle]

end Sys2Proof.Machine
end

