-- ==== Sys2Proof/Laws/PerInstr.lean ====
section
/-! SUPPORT. Statements about every command as syntax, one lemma per constructor. -/

namespace Sys2Proof.Laws.OnePort

/-- A command's transfer travels on the port the command belongs to (30_encoding.md R120, R132). -/
def Statement (i : Instr) : Prop := (encode i).port = i.port

theorem readc (arg : Byte) : Statement (.readc arg) := rfl
theorem readr (arg : Byte) : Statement (.readr arg) := rfl
theorem readg (arg : Byte) : Statement (.readg arg) := rfl
theorem readb (arg : Byte) : Statement (.readb arg) := rfl
theorem setgain (arg : Byte) : Statement (.setgain arg) := rfl
theorem setatime (arg : Byte) : Statement (.setatime arg) := rfl
theorem invalidOp (op arg : Byte) : Statement (.invalidOp op arg) := rfl
theorem sample : Statement .sample := rfl
theorem attach : Statement .attach := rfl
theorem detach : Statement .detach := rfl

end Sys2Proof.Laws.OnePort
end

