-- ==== Sys2Proof/Laws/Run.lean ====
section
/-! SUPPORT. Runs of several edges: how they compose, and one transaction served by an adapter that takes any time. -/

namespace Sys2Proof.Machine

theorem stateAfter_succ {s t : State} (n : Nat) (h : step s = .next t) : stateAfter (n + 1) s = stateAfter n t := by
  simp only [stateAfter, h]

theorem issued_succ {s t : State} (n : Nat) (h : step s = .next t) :
    issued (n + 1) s = (acceptedXact s).toList ++ issued n t := by
  simp only [issued, h]

theorem consumed_succ {s t : State} (n : Nat) (h : step s = .next t) :
    consumed (n + 1) s = (consumedAnswer s).toList ++ consumed n t := by
  simp only [consumed, h]

/-- A run of `m` edges to `t` with the transactions `xs` and the answers `rs`. -/
structure Run (m : Nat) (s t : State) (xs : List Xact) (rs : List XResult) : Prop where
  after : stateAfter m s = some t
  issues : issued m s = xs
  consumes : consumed m s = rs

theorem Run.refl (s : State) : Run 0 s s [] [] := ⟨rfl, rfl, rfl⟩

theorem Run.step {s t u : State} {n : Nat} {xs rs} (h : step s = .next t) (r : Run n t u xs rs) :
    Run (n + 1) s u ((acceptedXact s).toList ++ xs) ((consumedAnswer s).toList ++ rs) :=
  ⟨by rw [stateAfter_succ n h, r.after], by rw [issued_succ n h, r.issues], by rw [consumed_succ n h, r.consumes]⟩

theorem Run.trans {m n : Nat} {s t u : State} {xs xs' : List Xact} {rs rs' : List XResult}
    (h : Run m s t xs rs) (h' : Run n t u xs' rs') : Run (m + n) s u (xs ++ xs') (rs ++ rs') := by
  induction m generalizing s xs rs with
  | zero =>
    obtain ⟨ha, rfl, rfl⟩ := h
    cases ha
    simpa [issued, consumed] using h'
  | succ m ih =>
    obtain ⟨ha, hi, hc⟩ := h
    cases hs : Machine.step s with
    | next v =>
      rw [stateAfter_succ m hs] at ha
      rw [issued_succ m hs] at hi
      rw [consumed_succ m hs] at hc
      subst hi hc
      rw [Nat.succ_add, List.append_assoc, List.append_assoc]
      exact Run.step hs (ih ⟨ha, rfl, rfl⟩)
    | fault r => simp [stateAfter, hs] at ha
    | refused r => simp [stateAfter, hs] at ha

/-- The block without its environment at a state's FSM state, with the given pins to come. -/
theorem input_cons {s : State} {e : EdgeIn} {l : List EdgeIn} (h : s.script = e :: l) : s.input = e := by
  simp [State.input, h]

@[simp] theorem idlePins_rst : idlePins.rst = false := rfl
@[simp] theorem idlePins_xtReady : idlePins.xtReady = false := rfl
@[simp] theorem idlePins_xrValid : idlePins.xrValid = false := rfl
@[simp] theorem readyPins_rst : readyPins.rst = false := rfl
@[simp] theorem readyPins_xtReady : readyPins.xtReady = true := rfl
@[simp] theorem readyPins_xrValid : readyPins.xrValid = false := rfl
@[simp] theorem answerPins_rst (r : XResult) : (answerPins r).rst = false := by cases r <;> rfl
@[simp] theorem answerPins_xtReady (r : XResult) : (answerPins r).xtReady = false := by cases r <;> rfl
@[simp] theorem answerPins_xrValid (r : XResult) : (answerPins r).xrValid = true := by cases r <;> rfl
@[simp] theorem resultOf_answerPins (r : XResult) : resultOf (answerPins r) = r := by cases r <;> rfl
@[simp] theorem offerPins_rst (p : Payload) : (offerPins p).rst = false := by cases p <;> rfl

@[simp] theorem offeredPayload_offerPins (p : Payload) : offeredPayload (offerPins p) = some p := by cases p <;> rfl

/-- A command that is offered, alone, in an idle state is taken. -/
theorem step_offer {s : State} {p : Payload} {l : List EdgeIn} (hl : legalParams s.cfg = true)
    (hi : s.st.isIdle = true) (h : s.script = offerPins p :: l) :
    step s = .next (acceptOf (decode p) s).advance :=
  step_taken hl (by simp [input_cons h]) hi (by simp [offeredCommand, input_cons h])

/-- An edge at which nothing is driven, in a transaction state: the response register falls quiet, nothing else happens. -/
theorem step_idlePins {s : State} {l : List EdgeIn} (hl : legalParams s.cfg = true) (hx : s.st.isXfer = true)
    (h : s.script = idlePins :: l) :
    step s = .next { quiet s with script := l, edge := s.edge + 1 } ∧ acceptedXact s = none ∧
      consumedAnswer s = none := by
  obtain ⟨x, hx'⟩ := xactOf_some hx
  have hi := isIdle_of_xactOf hx'
  refine ⟨?_, by simp [acceptedXact, input_cons h], by simp [consumedAnswer, input_cons h]⟩
  rw [step_busy hl (by simp [input_cons h]) hi, busyEdge_xfer hx']
  unfold xferEdge
  cases s.xq <;> simp [input_cons h, State.advance, h]

/-- Nothing driven for `k` edges. -/
theorem run_idlePins (k : Nat) {s : State} {l : List EdgeIn} (hl : legalParams s.cfg = true)
    (hx : s.st.isXfer = true) (hv : s.rspValid = false) (h : s.script = List.replicate k idlePins ++ l) :
    Run k s { s with script := l, edge := s.edge + k } [] [] := by
  induction k generalizing s with
  | zero =>
    have : ({ s with script := l, edge := s.edge + 0 } : State) = s := by
      rcases s with ⟨cfg, st, xq, pwr, fail, fxerr, chipId, tmr, cport, cop, carg, ch, lo, buf, rv, rp, rs, rx, rd, m, sc, n⟩
      simp at h; simp [h]
    rw [this]; exact Run.refl s
  | succ k ih =>
    obtain ⟨h1, h2, h3⟩ := step_idlePins (s := s) hl hx (l := List.replicate k idlePins ++ l) (by rw [h]; rfl)
    have := Run.step h1 (ih (s := { quiet s with script := List.replicate k idlePins ++ l, edge := s.edge + 1 })
      hl hx rfl rfl)
    rw [h2, h3] at this
    have he : s.edge + 1 + k = s.edge + (k + 1) := by omega
    simpa [quiet, he, hv] using this

/-- The edge at which the adapter takes the offered transaction. -/
theorem step_readyPins {s : State} {x : Xact} {l : List EdgeIn} (hl : legalParams s.cfg = true)
    (hx : xactOf s = some x) (hq : s.xq = false) (h : s.script = readyPins :: l) :
    step s = .next { quiet s with xq := true, sensor := sensorStart x s.sensor, script := l, edge := s.edge + 1 } ∧
      acceptedXact s = some x ∧ consumedAnswer s = none := by
  have hin := input_cons h
  refine ⟨?_, by simp [acceptedXact, offeredXact, hin, hq, hx], by simp [consumedAnswer, hin]⟩
  rw [step_busy hl (by simp [hin]) (isIdle_of_xactOf hx), busyEdge_xfer hx]
  unfold xferEdge
  simp [hq, hin, startXact, State.advance, h]

/-- The edge at which the adapter answers. -/
theorem step_answerPins {s : State} {x : Xact} {l : List EdgeIn} (r : XResult) (hl : legalParams s.cfg = true)
    (hx : xactOf s = some x) (hq : s.xq = true) (h : s.script = answerPins r :: l) :
    step s = .next (completeXact r { quiet s with xq := false, sensor := sensorFinish x r s.sensor, script := l,
                                                  edge := s.edge + 1 }) ∧
      acceptedXact s = none ∧ consumedAnswer s = some r := by
  have hin := input_cons h
  have hxf : s.st.isXfer = true := by rw [← xactOf_isSome, hx]; rfl
  refine ⟨?_, by simp [acceptedXact, hin], by simp [consumedAnswer, outstanding, hin, hq, hxf]⟩
  rw [step_busy hl (by simp [hin]) (isIdle_of_xactOf hx), busyEdge_xfer hx]
  have h1 := completeXact_withEnv r { quiet s with xq := false } (sensorFinish x r s.sensor) l (s.edge + 1)
  have h2 := completeXact_withEnv r { quiet s with xq := false } (sensorFinish x r s.sensor) s.script s.edge
  have e1 : ({ quiet s with xq := false, sensor := sensorFinish x r s.sensor, script := l, edge := s.edge + 1 }
      : State) = State.withEnv { quiet s with xq := false } (sensorFinish x r s.sensor) l (s.edge + 1) := rfl
  have e2 : finishXact x r (quiet s) = completeXact r
      (State.withEnv { quiet s with xq := false } (sensorFinish x r s.sensor) s.script s.edge) := rfl
  unfold xferEdge
  rw [if_pos hq, hin, if_pos (answerPins_xrValid r), resultOf_answerPins, e2, h2, e1, h1, advance_withEnv, h]
  rfl

/-- One transaction served by an adapter that accepts after `hold` edges and answers `late + 1` edges later. -/
theorem run_serve (hold late : Nat) (r : XResult) {s : State} {x : Xact} {l : List EdgeIn}
    (hl : legalParams s.cfg = true) (hx : xactOf s = some x) (hq : s.xq = false) (hv : s.rspValid = false)
    (h : s.script = serve hold late r ++ l) :
    Run (hold + late + 2) s
      (completeXact r { s with sensor := sensorFinish x r (sensorStart x s.sensor), script := l,
                               edge := s.edge + (hold + late + 2) }) [x] [r] := by
  have hxf : s.st.isXfer = true := by rw [← xactOf_isSome, hx]; rfl
  have r1 := run_idlePins hold (s := s) (l := readyPins :: (List.replicate late idlePins ++ (answerPins r :: l)))
    hl hxf hv (by rw [h]; simp [serve])
  obtain ⟨s2, a2, c2⟩ := step_readyPins (x := x) (l := List.replicate late idlePins ++ (answerPins r :: l))
    (s := { s with script := readyPins :: (List.replicate late idlePins ++ (answerPins r :: l)),
                   edge := s.edge + hold }) hl hx hq rfl
  have r3 := run_idlePins late (l := answerPins r :: l)
    (s := { quiet s with xq := true, sensor := sensorStart x s.sensor,
                         script := List.replicate late idlePins ++ (answerPins r :: l), edge := s.edge + hold + 1 })
    hl hxf rfl rfl
  obtain ⟨s4, a4, c4⟩ := step_answerPins (x := x) (l := l) r
    (s := { quiet s with xq := true, sensor := sensorStart x s.sensor, script := answerPins r :: l,
                         edge := s.edge + hold + 1 + late }) hl hx rfl rfl
  have f4 := Run.step s4 (Run.refl _)
  rw [a4, c4] at f4
  have f2 := Run.step s2 (r3.trans f4)
  rw [a2, c2] at f2
  have f := r1.trans f2
  have hn : hold + (late + (0 + 1) + 1) = hold + late + 2 := by omega
  have he : s.edge + hold + 1 + late + 1 = s.edge + (hold + late + 2) := by omega
  rw [hn] at f
  rcases s with ⟨cfg, st, xq, pwr, fail, fxerr, chipId, tmr, cport, cop, carg, ch, lo, buf, rv, rp, rs, rx, rd, m, sc, n⟩
  simp only at hq hv he
  subst hq hv
  simpa [quiet, he] using f

/-- The two reads of one word, served with success (40_word_reader.md R160). -/
theorem run_serveWord (t : WordTiming) (low high : Byte) {s : State} {l : List EdgeIn}
    (hl : legalParams s.cfg = true) (hs : s.st = .rdLo) (hq : s.xq = false) (hv : s.rspValid = false)
    (h : s.script = serveWord t low high ++ l) :
    Run t.edges s
      (continueWord (wordOf high low) { s with lo := low, st := .rdHi, buf := s.buf.set s.ch (wordOf high low),
                                               script := l, edge := s.edge + t.edges })
      [.read (chanAddr s.cfg s.ch), .read (highAddr (chanAddr s.cfg s.ch))] [.ok low, .ok high] := by
  have f1 := run_serve t.hold1 t.late1 (.ok low) (s := s) (x := .read (chanAddr s.cfg s.ch))
    (l := serve t.hold2 t.late2 (.ok high) ++ l) hl (by simp [xactOf, hs]) hq hv
    (by rw [h, serveWord, List.append_assoc])
  have e1 : completeXact (.ok low) { s with
        sensor := sensorFinish (.read (chanAddr s.cfg s.ch)) (.ok low)
          (sensorStart (.read (chanAddr s.cfg s.ch)) s.sensor),
        script := serve t.hold2 t.late2 (.ok high) ++ l, edge := s.edge + (t.hold1 + t.late1 + 2) } =
      { s with lo := low, st := .rdHi, script := serve t.hold2 t.late2 (.ok high) ++ l,
               edge := s.edge + (t.hold1 + t.late1 + 2) } := by
    simp [completeXact, hs, doneRdLo, sensorFinish, sensorStart]
  rw [e1] at f1
  have f2 := run_serve t.hold2 t.late2 (.ok high) (l := l)
    (s := { s with lo := low, st := .rdHi, script := serve t.hold2 t.late2 (.ok high) ++ l,
                   edge := s.edge + (t.hold1 + t.late1 + 2) })
    (x := .read (highAddr (chanAddr s.cfg s.ch))) hl rfl hq hv rfl
  have f := f1.trans f2
  have he : s.edge + (t.hold1 + t.late1 + 2) + (t.hold2 + t.late2 + 2) = s.edge + t.edges := by
    simp only [WordTiming.edges, serveEdges]; omega
  simp only [he] at f
  exact f

/-- One edge of a settling wait at which nothing is driven (41_lifecycle.md R190). -/
theorem step_wait {s : State} {l : List EdgeIn} (hl : legalParams s.cfg = true) (hw : s.st.isWait = true)
    (h : s.script = idlePins :: l) :
    step s = .next (busyEdge s).advance ∧ acceptedXact s = none ∧ consumedAnswer s = none := by
  have hin := input_cons h
  have hi : s.st.isIdle = false := by revert hw; cases s.st <;> simp [Fsm.isWait, Fsm.isIdle]
  exact ⟨step_busy hl (by simp [hin]) hi, by simp [acceptedXact, hin], by simp [consumedAnswer, hin]⟩

/-- A settling wait counts down for as many edges as its timer has left, at most. -/
theorem run_countdown (k : Nat) {s : State} {l : List EdgeIn} (hl : legalParams s.cfg = true)
    (hw : s.st.isWait = true) (hv : s.rspValid = false) (hk : k ≤ s.tmr.toNat)
    (h : s.script = List.replicate k idlePins ++ l) :
    Run k s { s with tmr := BitVec.ofNat 32 (s.tmr.toNat - k), script := l, edge := s.edge + k } [] [] := by
  induction k generalizing s with
  | zero =>
    rcases s with ⟨cfg, st, xq, pwr, fail, fxerr, chipId, tmr, cport, cop, carg, ch, lo, buf, rv, rp, rs, rx, rd, m, sc, n⟩
    simp at h
    simpa [h] using Run.refl _
  | succ k ih =>
    obtain ⟨h1, h2, h3⟩ := step_wait (s := s) (l := List.replicate k idlePins ++ l) hl hw (by rw [h]; rfl)
    have hne : s.tmr ≠ 0 := by rintro h0; rw [h0] at hk; simp at hk
    have htm : (s.tmr - 1).toNat = s.tmr.toNat - 1 := by
      rw [BitVec.toNat_sub_of_le (by bv_omega)]; rfl
    have hb : busyEdge s = { quiet s with tmr := s.tmr - 1 } := by
      have hx : xactOf s = none := by
        unfold xactOf; revert hw; cases s.st <;> simp [Fsm.isWait]
      unfold busyEdge
      rw [hx]
      revert hw
      cases hs : s.st <;> simp only [Fsm.isWait, waitEdge] <;> intro _ <;> first | exact if_neg hne | contradiction
    have r := ih (s := { quiet s with tmr := s.tmr - 1, script := List.replicate k idlePins ++ l,
                                      edge := s.edge + 1 }) hl hw rfl (by rw [htm]; omega) rfl
    have h1' : step s = .next { quiet s with tmr := s.tmr - 1, script := List.replicate k idlePins ++ l,
                                             edge := s.edge + 1 } := by
      rw [h1, hb]; simp [State.advance, h, List.replicate_succ]
    have f := Run.step h1' r
    rw [h2, h3] at f
    simp only at f
    have he : s.edge + 1 + k = s.edge + (k + 1) := by omega
    have ht : s.tmr.toNat - 1 - k = s.tmr.toNat - (k + 1) := by omega
    rw [htm, ht, he] at f
    simpa only [quiet, hv, List.append_nil, Option.toList] using f

end Sys2Proof.Machine
end

