-- ==== Sys2Proof/Laws/Words.lean ====
section
/-! SUPPORT. The concatenations of 30_encoding.md R121 and 40_word_reader.md R160 as numbers, and the fields read back. -/

namespace Sys2Proof

theorem toNat_concat_bytes (high low : Byte) : (high ++ low : BitVec 16).toNat = high.toNat * 256 + low.toNat := by
  have h := BitVec.toNat_append high low
  rw [← Nat.shiftLeft_add_eq_or_of_lt low.isLt, Nat.shiftLeft_eq] at h
  exact h

theorem reqOp_reqWordOf (op arg : Byte) : reqOp (reqWordOf op arg) = op := by
  have h := toNat_concat_bytes op arg
  have h1 := op.isLt
  have h2 := arg.isLt
  apply BitVec.eq_of_toNat_eq
  unfold reqOp reqWordOf
  simp only [BitVec.toNat_setWidth, BitVec.toNat_ushiftRight, Nat.shiftRight_eq_div_pow]
  omega

theorem reqArg_reqWordOf (op arg : Byte) : reqArg (reqWordOf op arg) = arg := by
  have h := toNat_concat_bytes op arg
  have h2 := arg.isLt
  apply BitVec.eq_of_toNat_eq
  unfold reqArg reqWordOf
  simp only [BitVec.toNat_setWidth]
  omega

theorem reqWordOf_reqOp_reqArg (w : Word) : reqWordOf (reqOp w) (reqArg w) = w := by
  have h := toNat_concat_bytes (reqOp w) (reqArg w)
  have hw := w.isLt
  apply BitVec.eq_of_toNat_eq
  unfold reqWordOf
  simp only [reqOp, reqArg, BitVec.toNat_setWidth, BitVec.toNat_ushiftRight, Nat.shiftRight_eq_div_pow] at h
  simp only [reqOp, reqArg]
  omega

theorem toNat_reqOp (w : Word) : (reqOp w).toNat = (w >>> 8).toNat := by
  have := w.isLt
  simp only [reqOp, BitVec.toNat_setWidth, BitVec.toNat_ushiftRight, Nat.shiftRight_eq_div_pow]
  omega

end Sys2Proof
end

