-- ==== Sys2Proof/Tests/Slice0.lean ====
section
/-! SUPPORT. Tests: the expected values are those of spec/95_test_vectors.md (V and T numbers) or are worked out by hand from the
rule named. Then one witness for every statement with hypotheses: a concrete state and operands that meet them. -/

namespace Sys2Proof.Tests
open Sys2Proof.Machine

/-! ### Decoding: payloads written out from 30_encoding.md R121 to R125 (vectors 2.1) -/

theorem test_decode_readc : decode (.req 0b00000001_00000000) = .readc 0x00 := rfl
theorem test_decode_readc_arg : decode (.req 0x01AB) = .readc 0xAB := rfl
theorem test_decode_readr : decode (.req 0b00000010_00000000) = .readr 0x00 := rfl
theorem test_decode_readg : decode (.req 0b00000011_11111111) = .readg 0xFF := rfl
theorem test_decode_readb : decode (.req 0b00000100_00000000) = .readb 0x00 := rfl
theorem test_decode_setgain : decode (.req 0b00000101_00000011) = .setgain 0x03 := rfl
theorem test_decode_setatime : decode (.req 0b00000110_11000000) = .setatime 0xC0 := rfl
theorem test_decode_invalid_zero : decode (.req 0b00000000_00000000) = .invalidOp 0x00 0x00 := rfl
theorem test_decode_invalid_seven : decode (.req 0b00000111_00000000) = .invalidOp 0x07 0x00 := rfl
theorem test_decode_invalid_last : decode (.req 0xFF05) = .invalidOp 0xFF 0x05 := rfl
theorem test_decode_sample : decode .smp = .sample := rfl
theorem test_decode_attach : decode (.lc 0b0) = .attach := rfl
theorem test_decode_detach : decode (.lc 0b1) = .detach := rfl

/-- The rows of spec/opcode_table.json, by number. -/
theorem test_table_words :
    decodeTableWord 16 0x0100 = some (.readc 0) ∧ decodeTableWord 16 0x0200 = some (.readr 0) ∧
    decodeTableWord 16 0x0300 = some (.readg 0) ∧ decodeTableWord 16 0x0400 = some (.readb 0) ∧
    decodeTableWord 16 0x0500 = some (.setgain 0) ∧ decodeTableWord 16 0x0600 = some (.setatime 0) ∧
    decodeTableWord 16 0x0000 = some (.invalidOp 0 0) ∧ decodeTableWord 0 0 = some .sample ∧
    decodeTableWord 8 0 = some .attach ∧ decodeTableWord 8 1 = some .detach := by decide

theorem test_table_words_refused : decodeTableWord 24 0 = none ∧ decodeTableWord 16 0x10000 = none := by decide

/-! ### Well-formedness: `invalidOp` on a named op code is the one ill-formed term -/

theorem test_ill_formed :
    (Instr.invalidOp 0x01 0).wellFormed = false ∧ (Instr.invalidOp 0x02 0).wellFormed = false ∧
    (Instr.invalidOp 0x03 0).wellFormed = false ∧ (Instr.invalidOp 0x04 0).wellFormed = false ∧
    (Instr.invalidOp 0x05 0).wellFormed = false ∧ (Instr.invalidOp 0x06 0).wellFormed = false := by decide

theorem test_well_formed :
    (Instr.invalidOp 0x00 0).wellFormed = true ∧ (Instr.invalidOp 0x07 0).wellFormed = true ∧
    (Instr.invalidOp 0xFF 5).wellFormed = true ∧ (Instr.readc 0).wellFormed = true ∧
    Instr.sample.wellFormed = true ∧ Instr.detach.wellFormed = true := by decide

/-! ### Assembler lines (30_encoding.md R133) -/

theorem test_assemble_readc : assembleText "READC ; the clear channel" = some (.req 0x0100) := by decide
theorem test_assemble_setgain : assembleText "SETGAIN 0x03" = some (.req 0x0503) := by decide
theorem test_assemble_setatime : assembleText "SETATIME 192" = some (.req 0x06C0) := by decide
theorem test_assemble_raw : assembleText ".req 0xff05" = some (.req 0xFF05) := by decide
theorem test_assemble_range : assembleText "SETGAIN 256" = none ∧ assemble (.rawReq 65536) = none := by decide
theorem test_assemble_unknown : assembleText "READX" = none := by decide

/-! ### Values (vectors 2.2, 2.10) -/

theorem test_word : wordOf 0x12 0x34 = 0x1234 ∧ wordOf 0x80 0x00 = 0x8000 ∧ wordOf 0x00 0x80 = 0x0080 := by decide
theorem test_result_bytes : resultBytes 0x1234 2 = [0x34, 0x12] := by decide
theorem test_sample_bytes : resultBytes (sampleData 0x0110 0x0220 0x0330 0x0440) 8 =
    [0x10, 0x01, 0x20, 0x02, 0x30, 0x03, 0x40, 0x04] := by decide
theorem test_frame : frame 0x00 = 0x80 ∧ frame 0x14 = 0x94 ∧ frame 0x7F = 0xFF := by decide
theorem test_high_addr_wraps : highAddr 0x7F = 0x00 := by decide

theorem test_tick_counts :
    ponTicks (defaultParams 1) = 1 ∧ aenTicks (defaultParams 1) = 1 ∧
    ponTicks (defaultParams 100) = 1 ∧ aenTicks (defaultParams 100) = 70 ∧
    ponTicks (defaultParams 1234) = 13 ∧ aenTicks (defaultParams 1234) = 864 ∧
    ponTicks (defaultParams 50000000) = 500000 ∧ aenTicks (defaultParams 50000000) = 35000000 := by decide

theorem test_fast_clock_refused :
    aenTicks (defaultParams 7000000000) = 4900000000 ∧ legalParams (defaultParams 7000000000) = false := by decide

/-! ### One edge each -/

/-- Named start states (vectors, section 0). -/
def u0 : State := State.reset
def a44 : State := { State.reset with st := .idleA, pwr := .active, chipId := 0x44 }
def fm (b : Byte) : State := { State.reset with st := .idleF, fail := .idMismatch, chipId := b }
def fa (e : Byte) : State :=
  { State.reset with st := .idleF, pwr := .powered, fail := .aenXt, fxerr := e, chipId := 0x44 }

/-- A state with one edge's pins, and nothing driven at the edge after it. -/
def at1 (s : State) (e : EdgeIn) : State := { s with script := [e, idlePins] }

/-- A state of the block waiting for the answer to its transaction. -/
def awaiting (st : Fsm) (p : Port) (s : State) : State := { s with st := st, cport := p, xq := true }

/-- Something an edge leaves. -/
def observe {α : Type} (f : State → α) (s : State) : Option α :=
  match step s with
  | .next t => some (f t)
  | .fault _ => none
  | .refused _ => none

/-- The registers that say where the block is, and the response. -/
def response (t : State) : Fsm × Bool × Port × Status × Byte × Wide :=
  (t.st, t.rspValid, t.rspPort, t.rspStatus, t.rspXerr, t.rspData)

/-- V10, V16: READC 0xAB is accepted, its argument latched. -/
theorem test_readc_accept : observe (fun t => (t.st, t.cport, t.cop, t.carg, t.ch)) (at1 a44 (offerPins (.req 0x01AB))) =
    some (.rdLo, .req, 0x01, 0xAB, .clear) := by decide

/-- V17. -/
theorem test_readc_not_ready : observe response (at1 u0 (offerPins (.req 0x0100))) =
    some (.idleU, true, .req, .notReady, 0x00, 0) := by decide

/-- V18. -/
theorem test_readr_failed : observe response (at1 (fa 0x33) (offerPins (.req 0x0200))) =
    some (.idleF, true, .req, .notReady, 0x00, 0) := by decide

/-- V13: the green channel is index 2. -/
theorem test_readg_accept : observe (fun t => (t.st, t.cop, t.ch)) (at1 a44 (offerPins (.req 0x0300))) =
    some (.rdLo, 0x03, .green) := by decide

/-- V14: the low byte of the blue channel fails. -/
theorem test_readb_low_fails :
    observe response (at1 (awaiting .rdLo .req { a44 with cop := 0x04, ch := .blue }) (answerPins (.err 0x05))) =
      some (.idleA, true, .req, .transport, 0x05, 0) := by decide

/-- V10: the high byte of the clear channel ends the command. -/
theorem test_readc_ends :
    observe response (at1 (awaiting .rdHi .req { a44 with cop := 0x01, lo := 0x34 }) (answerPins (.ok 0x12))) =
      some (.idleA, true, .req, .ok, 0x00, 0x1234) := by decide

/-- V40: SETGAIN 0x03 is accepted and offers its write at the control register. -/
theorem test_setgain_accept :
    observe (fun t => (t.st, t.cop, t.carg, offeredXact t)) (at1 a44 (offerPins (.req 0x0503))) =
      some (.cfgWr, 0x05, 0x03, some (.write 0x0F 0x03)) := by decide

/-- V42: SETATIME 0xC0 offers its write at the integration time register. -/
theorem test_setatime_accept :
    observe (fun t => (t.st, offeredXact t)) (at1 a44 (offerPins (.req 0x06C0))) =
      some (.cfgWr, some (.write 0x01 0xC0)) := by decide

/-- V44: the write fails. -/
theorem test_setgain_fails :
    observe response (at1 (awaiting .cfgWr .req { a44 with cop := 0x05, carg := 0x01 }) (answerPins (.err 0x09))) =
      some (.idleA, true, .req, .transport, 0x09, 0) := by decide

/-- V51: the op code is checked before the state. -/
theorem test_invalid_first : observe response (at1 u0 (offerPins (.req 0x0000))) =
    some (.idleU, true, .req, .invalid, 0x00, 0) := by decide

/-- V50: the command registers keep their values. -/
theorem test_invalid_latches_nothing :
    observe (fun t => (t.cport, t.cop, t.carg)) (at1 { a44 with cport := .smp, cop := 0x02, carg := 0x77 }
      (offerPins (.req 0x0700))) = some (.smp, 0x02, 0x77) := by decide

/-- V30: SAMPLE begins at the clear channel. -/
theorem test_sample_accept : observe (fun t => (t.st, t.cport, t.ch, offeredXact t)) (at1 a44 (offerPins .smp)) =
    some (.rdLo, .smp, .clear, some (.read 0x14)) := by decide

/-- V31: a failed red read ends the sample with no data. -/
theorem test_sample_fails :
    observe response (at1 (awaiting .rdLo .smp { a44 with ch := .red, buf := ⟨0x0110, 0, 0, 0⟩ })
      (answerPins (.err 0x05))) = some (.idleA, true, .smp, .transport, 0x05, 0) := by decide

/-- V1: ATTACH begins with the identity read. -/
theorem test_attach_accept : observe (fun t => (t.st, t.cport, offeredXact t)) (at1 u0 (offerPins (.lc 0))) =
    some (.idRd, .lc, some (.read 0x12)) := by decide

/-- V9a: ATTACH with a live handle answers the identity byte. -/
theorem test_attach_live : observe response (at1 (fm 0x45) (offerPins (.lc 0))) =
    some (.idleF, true, .lc, .invalid, 0x00, 0x45) := by decide

/-- V20: DETACH begins the power-down write. -/
theorem test_detach_accept : observe (fun t => (t.st, t.cport, offeredXact t)) (at1 a44 (offerPins (.lc 1))) =
    some (.tdWr, .lc, some (.write 0x00 0x00)) := by decide

/-- V22: with the power off the release writes nothing. -/
theorem test_detach_off : observe (fun t => (t.st, t.rspValid, t.rspStatus, t.fail, t.chipId)) (at1 (fm 0x45) (offerPins (.lc 1))) =
    some (.idleU, true, .ok, .none, 0x00) := by decide

/-- V60: with all three ports offering, REQ goes first. -/
theorem test_arbitration :
    observe (fun t => (t.st, t.cport)) (at1 a44 { offerPins (.req 0x0100) with smpValid := true, lcValid := true, lcOp := 1 }) =
      some (.rdLo, .req) := by decide

/-- A step runs the word placed where it takes its command from, after reset: READC answers NOTREADY (V17), ATTACH begins (V1),
DETACH is invalid (V24), SAMPLE is not ready (V36). -/
theorem test_fetch_word :
    observe (fun t => (t.rspPort, t.rspStatus)) (State.reset.withFetchWord 16 0x0100) = some (.req, .notReady) ∧
    observe (·.st) (State.reset.withFetchWord 8 0) = some .idRd ∧
    observe (fun t => (t.rspPort, t.rspStatus)) (State.reset.withFetchWord 8 1) = some (.lc, .invalid) ∧
    observe (fun t => (t.rspPort, t.rspStatus)) (State.reset.withFetchWord 0 0) = some (.smp, .notReady) := by decide

/-- V50, V36, V4, V44: the codes on the response pins after INVALID, NOTREADY, UNRECOGNIZED and TRANSPORT (30_encoding.md R127). -/
theorem test_status_pins :
    observe (fun t => ((outputs t).rspStatus, (outputs t).rspPort)) (at1 a44 (offerPins (.req 0x0700))) = some (3, 0) ∧
    observe (fun t => ((outputs t).rspStatus, (outputs t).rspPort)) (at1 u0 (offerPins .smp)) = some (4, 1) ∧
    observe (fun t => ((outputs t).rspStatus, (outputs t).rspPort)) (at1 (awaiting .idRd .lc u0) (answerPins (.ok 0x45))) =
      some (2, 2) ∧
    observe (fun t => ((outputs t).rspStatus, (outputs t).rspXerr))
      (at1 (awaiting .cfgWr .req { a44 with cop := 0x05, carg := 0x01 }) (answerPins (.err 0x09))) = some (1, 0x09) := by
  decide

/-- V8, V1: the status pins after the second enable write failed, and in the cycle after ATTACH is taken (10_state.md R31). -/
theorem test_handle_pins :
    observe (fun t => ((outputs t).stFail, (outputs t).stPwr, (outputs t).stChipId, (outputs t).stBusy))
      (at1 (awaiting .aenWr .lc { u0 with chipId := 0x44, pwr := .powered }) (answerPins (.err 0x33))) =
      some (4, 0b01, 0x44, false) ∧
    observe (fun t => (outputs t).stBusy) (at1 u0 (offerPins (.lc 0))) = some true := by decide

/-! ### Witnesses: encoding and the step -/

theorem legal_default : legalParams State.reset.cfg = true := by decide

theorem wit_wellFormed (arg : Byte) : (Instr.setgain arg).wellFormed = true := rfl

theorem wit_assembler : (255 < 256 ∧ 256 ≤ 256) ∧ (65535 < 65536 ∧ 65536 ≤ 65536) := by decide

theorem wit_lifecycle :
    (fm 0x45).st = .idleF ∧ a44.st = .idleA ∧ (awaiting .tdWr .lc (fa 0x33)).fail ≠ .none ∧
    (awaiting .tdWr .lc a44).fail = .none ∧ u0.st = .idleU := by decide

theorem wit_StepRunsTheOfferedCommand :
    let s := at1 a44 (offerPins (.req 0x0503))
    legalParams s.cfg = true ∧ s.input.rst = false ∧ offeredPayload s.input = some (.req 0x0503) ∧
      decode (.req 0x0503) = .setgain 0x03 := by decide

theorem wit_CommandsAreTaken :
    (let s := at1 a44 (offerPins (.req 0x0100))
     legalParams s.cfg = true ∧ s.input.rst = false ∧ s.st.isIdle = true ∧ s.input.reqValid = true) ∧
    (let s := at1 a44 (offerPins .smp)
     s.input.rst = false ∧ s.input.reqValid = false ∧ s.input.smpValid = true) ∧
    (let s := at1 a44 (offerPins (.lc 1))
     s.input.rst = false ∧ s.input.reqValid = false ∧ s.input.smpValid = false ∧ s.input.lcValid = true) ∧
    (let s := at1 a44 idlePins
     s.input.rst = false ∧ s.input.reqValid = false ∧ s.input.smpValid = false ∧ s.input.lcValid = false) ∧
    (let s := at1 (awaiting .rdLo .req a44) idlePins
     legalParams s.cfg = true ∧ s.input.rst = false ∧ s.st.isIdle = false) := by decide

theorem wit_ResetEdge :
    let s := at1 (awaiting .tdWr .lc a44) { idlePins with rst := true }
    legalParams s.cfg = true ∧ s.input.rst = true := by decide

/-- Parameters with a delay outside its range. -/
def badParams : State := { State.reset with cfg := { defaultParams 1000 with tAenMs := 701 } }

theorem wit_legal_parameters : ParameterConstraints State.reset.cfg :=
  ⟨by decide, ⟨0, by decide, by decide⟩, ⟨1, by decide, by decide⟩, by decide, by decide, by decide, by decide, by decide,
    by decide, by decide, by decide⟩

theorem wit_illegal_parameters : ¬ParameterConstraints badParams.cfg := fun h => absurd h.2.2.2.2.2.1 (by decide)

theorem wit_step_next : ∃ t, step (at1 a44 idlePins) = .next t := ⟨_, rfl⟩

/-! ### Witnesses: accept rules, at the ends of each clause's range -/

theorem wit_ReqTransfer :
    a44.st.isIdle = true ∧ u0.st ≠ .idleA ∧
    ((0x00FF : Word) >>> 8).toNat = 0 ∧ 7 ≤ ((0x0700 : Word) >>> 8).toNat ∧ 7 ≤ ((0xFFFF : Word) >>> 8).toNat ∧
    1 ≤ ((0x0100 : Word) >>> 8).toNat ∧ ((0x06FF : Word) >>> 8).toNat ≤ 6 ∧
    ((0x0100 : Word) >>> 8).toNat = Channel.clear.code.toNat + 1 ∧
    ((0x04FF : Word) >>> 8).toNat = Channel.blue.code.toNat + 1 ∧ a44.st = .idleA ∧
    ((0x0500 : Word) >>> 8).toNat = 5 ∧ ((0x06FF : Word) >>> 8).toNat = 6 := by decide

theorem wit_InvalidOp : (Instr.invalidOp 0x07 0x00).wellFormed = true ∧ (fa 0x33).st.isIdle = true := by decide

theorem wit_accept_states :
    a44.st = .idleA ∧ u0.st = .idleU ∧ (fm 0x45).st = .idleF ∧ (fm 0x45).pwr = .off ∧
    (fa 0x33).st = .idleF ∧ (fa 0x33).pwr ≠ .off := by decide

/-! ### Witnesses: the transport port -/

theorem wit_TransportPort :
    (let s := at1 { a44 with st := .rdHi } idlePins
     s.input.rst = false ∧ s.xq = false ∧ s.st = .rdHi) ∧
    (at1 u0 { idlePins with rst := true }).input.rst = true ∧ (awaiting .rdLo .req a44).xq = true ∧
    a44.st.isXfer = false := by decide

theorem wit_TransportPort_stays :
    let s := at1 { a44 with st := .cfgWr, cop := 0x06, carg := 0xC0 } idlePins
    offeredXact s = some (.write 0x01 0xC0) ∧ s.input.xtReady = false ∧
      ∃ t, step s = .next t ∧ t.input.rst = false := ⟨by decide, by decide, _, rfl, rfl⟩

theorem wit_TransactionHandshake :
    (let s := at1 { a44 with st := .rdLo } idlePins
     legalParams s.cfg = true ∧ s.input.rst = false ∧ s.st.isXfer = true ∧ s.xq = false ∧ s.input.xtReady = false) ∧
    (let s := at1 { a44 with st := .rdLo } readyPins
     s.input.rst = false ∧ s.xq = false ∧ s.input.xtReady = true) ∧
    (let s := at1 (awaiting .rdLo .req a44) idlePins
     s.input.rst = false ∧ s.xq = true ∧ s.input.xrValid = false) ∧
    (let s := at1 (awaiting .rdLo .req a44) (answerPins (.ok 0x34))
     s.input.rst = false ∧ s.xq = true ∧ s.input.xrValid = true) := by decide

theorem wit_InputsInTheWrongState :
    a44.st.isXfer = false ∧ ({ a44 with st := .rdLo } : State).xq = false ∧
      (awaiting .rdLo .req a44).st.isIdle = false := by decide

/-! ### Witnesses: completion edges and waits -/

/-- The completion edge of each transaction state, with the answer `e`. -/
theorem completionEdge_at1 (st : Fsm) (p : Port) (s : State) (r : XResult) (h : legalParams s.cfg = true) :
    CompletionEdge st (at1 (awaiting st p s) (answerPins r)) := ⟨h, by cases r <;> rfl, rfl, rfl, by cases r <;> rfl⟩

/-- ATTACH in progress, its identity read. -/
def attaching (r : XResult) : State := at1 (awaiting .idRd .lc u0) (answerPins r)

theorem wit_IdentityReadCompletion :
    (CompletionEdge .idRd (attaching (.ok 0x44)) ∧ (attaching (.ok 0x44)).input.xrRdata = 0x44) ∧
    (CompletionEdge .idRd (attaching (.ok 0x4D)) ∧ (attaching (.ok 0x4D)).input.xrRdata = 0x4D) ∧
    (CompletionEdge .idRd (attaching (.ok 0x45)) ∧ (attaching (.ok 0x45)).input.xrOk = true ∧
      (attaching (.ok 0x45)).input.xrRdata ≠ 0x44 ∧ (attaching (.ok 0x45)).input.xrRdata ≠ 0x4D) ∧
    (CompletionEdge .idRd (attaching (.err 0x11)) ∧ (attaching (.err 0x11)).input.xrOk = false) :=
  ⟨⟨completionEdge_at1 _ _ _ _ (by decide), by decide⟩, ⟨completionEdge_at1 _ _ _ _ (by decide), by decide⟩,
    ⟨completionEdge_at1 _ _ _ _ (by decide), by decide⟩, ⟨completionEdge_at1 _ _ _ _ (by decide), by decide⟩⟩

theorem wit_PowerOnWriteCompletion :
    CompletionEdge .ponWr (at1 (awaiting .ponWr .lc { u0 with chipId := 0x44 }) (answerPins (.ok 0))) ∧
    CompletionEdge .ponWr (at1 (awaiting .ponWr .lc { u0 with chipId := 0x44 }) (answerPins (.err 0x22))) :=
  ⟨completionEdge_at1 _ _ _ _ (by decide), completionEdge_at1 _ _ _ _ (by decide)⟩

theorem wit_AdcEnableWriteCompletion :
    CompletionEdge .aenWr (at1 (awaiting .aenWr .lc { u0 with chipId := 0x44, pwr := .powered }) (answerPins (.ok 0))) ∧
    CompletionEdge .aenWr (at1 (awaiting .aenWr .lc { u0 with chipId := 0x44, pwr := .powered }) (answerPins (.err 0x33))) :=
  ⟨completionEdge_at1 _ _ _ _ (by decide), completionEdge_at1 _ _ _ _ (by decide)⟩

theorem wit_TeardownWriteCompletion :
    CompletionEdge .tdWr (at1 (awaiting .tdWr .lc a44) (answerPins (.ok 0))) ∧
    CompletionEdge .tdWr (at1 (awaiting .tdWr .lc a44) (answerPins (.err 0x07))) :=
  ⟨completionEdge_at1 _ _ _ _ (by decide), completionEdge_at1 _ _ _ _ (by decide)⟩

theorem wit_LowByteCompletion :
    CompletionEdge .rdLo (at1 (awaiting .rdLo .req a44) (answerPins (.ok 0x34))) ∧
    CompletionEdge .rdLo (at1 (awaiting .rdLo .smp a44) (answerPins (.err 0x05))) :=
  ⟨completionEdge_at1 _ _ _ _ (by decide), completionEdge_at1 _ _ _ _ (by decide)⟩

/-- A high-byte read in progress on a port and a channel. -/
def highByte (p : Port) (c : Channel) (r : XResult) : State :=
  at1 (awaiting .rdHi p { a44 with ch := c, lo := 0x34 }) (answerPins r)

theorem wit_HighByteCompletion :
    (CompletionEdge .rdHi (highByte .req .clear (.err 0x06)) ∧ (highByte .req .clear (.err 0x06)).input.xrOk = false) ∧
    (CompletionEdge .rdHi (highByte .req .clear (.ok 0x12)) ∧ (highByte .req .clear (.ok 0x12)).cport = .req ∧
      (0x1234 : Word) = (highByte .req .clear (.ok 0x12)).input.xrRdata ++ (highByte .req .clear (.ok 0x12)).lo) ∧
    (CompletionEdge .rdHi (highByte .smp .blue (.ok 0x12)) ∧ (highByte .smp .blue (.ok 0x12)).ch = .blue) ∧
    (CompletionEdge .rdHi (highByte .smp .clear (.ok 0x12)) ∧
      Channel.red.code.toNat = (highByte .smp .clear (.ok 0x12)).ch.code.toNat + 1) ∧
    (CompletionEdge .rdHi (highByte .smp .green (.ok 0x12)) ∧
      Channel.blue.code.toNat = (highByte .smp .green (.ok 0x12)).ch.code.toNat + 1) :=
  ⟨⟨completionEdge_at1 _ _ _ _ (by decide), by decide⟩, ⟨completionEdge_at1 _ _ _ _ (by decide), by decide⟩,
    ⟨completionEdge_at1 _ _ _ _ (by decide), by decide⟩, ⟨completionEdge_at1 _ _ _ _ (by decide), by decide⟩,
    ⟨completionEdge_at1 _ _ _ _ (by decide), by decide⟩⟩

theorem wit_ConfigWriteCompletion :
    (CompletionEdge .cfgWr (at1 (awaiting .cfgWr .req { a44 with cop := 0x05 }) (answerPins (.ok 0))) ∧
      a44.cfg.aControl = if (0x05 : Byte) = 0x05 then a44.cfg.aControl else a44.cfg.aAtime) ∧
    (CompletionEdge .cfgWr (at1 (awaiting .cfgWr .req { a44 with cop := 0x06 }) (answerPins (.err 0x09))) ∧
      a44.cfg.aAtime = if (0x06 : Byte) = 0x05 then a44.cfg.aControl else a44.cfg.aAtime) :=
  ⟨⟨completionEdge_at1 _ _ _ _ (by decide), by decide⟩, ⟨completionEdge_at1 _ _ _ _ (by decide), by decide⟩⟩

/-- A settling wait with `n` left. -/
def waiting (st : Fsm) (n : Ticks) (l : List EdgeIn) : State :=
  { u0 with st := st, cport := .lc, chipId := 0x44, tmr := n, script := l,
            pwr := if st = .aenWait then .active else .powered }

theorem wit_WaitArm :
    (let s := waiting .ponWait 1 [idlePins]
     legalParams s.cfg = true ∧ s.input.rst = false ∧ s.st = .ponWait ∧ s.tmr ≠ 0) ∧
    (let s := waiting .ponWait 0 [idlePins]
     s.input.rst = false ∧ s.st = .ponWait ∧ s.tmr = 0) ∧
    (let s := waiting .aenWait 0 [idlePins]
     s.input.rst = false ∧ s.st = .aenWait ∧ s.tmr = 0) := by decide

theorem wit_UnusedFsmCodes :
    let s := at1 { a44 with st := .unusedC } idlePins
    legalParams s.cfg = true ∧ s.input.rst = false ∧ 0xC ≤ s.st.code.toNat := by decide

/-! ### Witnesses: whole commands -/

/-- A state whose next pins offer a command, and whose adapter then does what `l` says. -/
def offering (s : State) (p : Payload) (l : List EdgeIn) : State := { s with script := offerPins p :: l }

theorem wit_ChannelReads :
    let t : WordTiming := ⟨0, 0, 2, 1⟩
    let s := offering a44 (.req 0x04AB) (serveWord t 0x34 0x12 ++ [])
    legalParams s.cfg = true ∧ s.st = .idleA ∧ s.xq = false ∧
      s.script = offerPins (encode (readInstr .blue 0xAB)) :: (serveWord t 0x34 0x12 ++ []) := by decide

theorem wit_SampleCompletes :
    let t : WordTiming := ⟨0, 0, 0, 0⟩
    let l := serveWord t 0x10 0x01 ++ serveWord t 0x20 0x02 ++ serveWord t 0x30 0x03 ++ serveWord t 0x40 0x04 ++ []
    let s := offering a44 .smp l
    legalParams s.cfg = true ∧ s.st = .idleA ∧ s.xq = false ∧ s.script = offerPins .smp :: l := by decide

theorem wit_ConfigWrites :
    (let s := offering a44 (.req 0x0503) (serve 1 0 (.ok 0) ++ [])
     legalParams s.cfg = true ∧ s.st = .idleA ∧ s.xq = false ∧
      s.script = offerPins (encode (.setgain 0x03)) :: (serve 1 0 (.ok 0) ++ [])) ∧
    (let s := offering a44 (.req 0x06C0) (serve 0 2 (.ok 0) ++ [])
     s.st = .idleA ∧ s.script = offerPins (encode (.setatime 0xC0)) :: (serve 0 2 (.ok 0) ++ [])) := by decide

theorem wit_AttachCompletes :
    let l := serve 0 0 (.ok 0x4D) ++ serve 0 0 (.ok 0) ++ List.replicate (ponTicks u0.cfg + 1) idlePins ++
      serve 0 0 (.ok 0) ++ List.replicate (aenTicks u0.cfg + 1) idlePins ++ []
    let s := offering u0 (.lc 0) l
    legalParams s.cfg = true ∧ s.st = .idleU ∧ s.xq = false ∧ s.script = offerPins (.lc 0) :: l :=
  ⟨by decide, rfl, rfl, rfl⟩

theorem wit_DetachCompletes :
    (let s := offering a44 (.lc 1) (serve 0 0 (.err 0x07) ++ [])
     legalParams s.cfg = true ∧ s.st = .idleA ∧ s.xq = false ∧
      s.script = offerPins (.lc 1) :: (serve 0 0 (.err 0x07) ++ [])) ∧
    (let s := offering (fa 0x33) (.lc 1) (serve 0 0 (.ok 0) ++ [])
     s.st = .idleF ∧ s.pwr ≠ .off ∧ s.script = offerPins (.lc 1) :: (serve 0 0 (.ok 0) ++ [])) := by decide

/-! ### Witnesses: invariants, frames and whole-machine rules -/

/-- A legal state in lifecycle ACTIVE, whatever is driven. -/
theorem inv_a44 (l : List EdgeIn) : State.Inv { a44 with script := l } :=
  ⟨legal_default, rfl, by simp [HandleInv, Identified, a44, State.reset, Fsm.isUnused, idAccepted], by simp [XferInv, a44, State.reset],
    by simp [TimerInv, a44, State.reset], by simp [CommandInv, a44, State.reset],
    by simp [ResponseInv, a44, State.reset]⟩

theorem wit_EveryStepKeepsTheInvariant :
    State.Inv (at1 a44 (offerPins .smp)) ∧ ∃ t, step (at1 a44 (offerPins .smp)) = .next t := ⟨inv_a44 _, _, rfl⟩

/-- A channel read in progress, its transaction not yet accepted or already outstanding. -/
theorem inv_reading (q : Bool) (l : List EdgeIn) :
    State.Inv { a44 with st := .rdLo, cop := 0x01, xq := q, script := l } :=
  ⟨legal_default, rfl, by simp [HandleInv, Identified, a44, State.reset, Fsm.isUnused, idAccepted],
    by simp [XferInv, Fsm.isXfer], by simp [TimerInv, a44, State.reset],
    by simp [CommandInv, a44, State.reset, Channel.code], by simp [ResponseInv, a44, State.reset]⟩

theorem wit_AtMostOne :
    (let s : State := { a44 with st := .rdLo, cop := 0x01, xq := false, script := [readyPins, idlePins] }
     s.Inv ∧ acceptedXact s ≠ none ∧ s.input.rst = false ∧ ∃ t, step s = .next t) ∧
    (let s : State := { a44 with st := .rdLo, cop := 0x01, xq := true, script := [idlePins, idlePins] }
     s.Inv ∧ outstanding s = true ∧ consumedAnswer s = none ∧ ∃ t, step s = .next t) :=
  ⟨⟨inv_reading _ _, by decide, rfl, _, rfl⟩, ⟨inv_reading _ _, rfl, rfl, _, rfl⟩⟩

theorem wit_ResponsesComeExactlyWhenCommandsEnd :
    let s := at1 a44 (offerPins (.req 0x0700))
    s.Inv ∧ s.input.rst = false ∧ offeredCommand s.input ≠ none ∧ ∃ t, step s = .next t :=
  ⟨inv_a44 _, rfl, by decide, _, rfl⟩

/-- For the statements on `pwr` and `tmr`: the enable writes complete with success, and the teardown write. -/
theorem wit_PowerAndTimer :
    (let s := at1 (awaiting .ponWr .lc u0) (answerPins (.ok 0))
     s.st = .ponWr ∧ consumedAnswer s = some (.ok 0) ∧ s.input.rst = false ∧ ∃ t, step s = .next t) ∧
    (let s := at1 (awaiting .aenWr .lc u0) (answerPins (.ok 0))
     s.st = .aenWr ∧ consumedAnswer s = some (.ok 0) ∧ s.input.rst = false ∧ ∃ t, step s = .next t) ∧
    (let s := at1 (awaiting .tdWr .lc a44) (answerPins (.err 0x07))
     s.st = .tdWr ∧ consumedAnswer s = some (.err 0x07) ∧ s.input.rst = false ∧ ∃ t, step s = .next t) :=
  ⟨⟨rfl, rfl, rfl, _, rfl⟩, ⟨rfl, rfl, rfl, _, rfl⟩, ⟨rfl, rfl, rfl, _, rfl⟩⟩

theorem wit_OnlyTheAddressedByte :
    let s := at1 (awaiting .cfgWr .req { a44 with cop := 0x05, carg := 0x03 }) (answerPins (.ok 0))
    xactOf s = some (.write 0x0F 0x03) ∧ consumedAnswer s = some (.ok 0) ∧ ∃ t, step s = .next t :=
  ⟨by decide, by decide, _, rfl⟩

/-- A failing and a releasing edge change `fail`. -/
theorem wit_FailureReason :
    (∃ t, step (attaching (.ok 0x45)) = .next t ∧ t.fail ≠ (attaching (.ok 0x45)).fail) ∧
    (∃ t, step (at1 (fm 0x45) (offerPins (.lc 1))) = .next t ∧ t.fail ≠ (fm 0x45).fail) :=
  ⟨⟨_, rfl, by decide⟩, ⟨_, rfl, by decide⟩⟩

theorem wit_RequestsLeaveTheHandleAlone :
    (let s := at1 (fa 0x33) (offerPins (.req 0x0100))
     s.input.rst = false ∧ s.st.isIdle = true ∧ s.input.reqValid = true ∧ ∃ t, step s = .next t) ∧
    (let s := at1 (awaiting .rdHi .smp a44) (answerPins (.err 0x0C))
     s.input.rst = false ∧ s.st = .rdHi ∧ ∃ t, step s = .next t) :=
  ⟨⟨rfl, rfl, rfl, _, rfl⟩, ⟨rfl, rfl, _, rfl⟩⟩

theorem wit_FailedIsLeft :
    let s := at1 (fm 0x45) (offerPins (.lc 0))
    s.st = .idleF ∧ s.input.rst = false ∧ offeredCommand s.input ≠ some .detach ∧ ∃ t, step s = .next t :=
  ⟨rfl, rfl, by decide, _, rfl⟩

theorem wit_SettlingWait :
    let s := waiting .ponWait 2 [idlePins, idlePins, idlePins]
    legalParams s.cfg = true ∧ s.st = .ponWait ∧ noReset (s.tmr.toNat + 1) s :=
  ⟨legal_default, rfl, by unfold noReset; decide⟩

/-- The second wait, of length one. -/
theorem wit_SettlingWait_second :
    let s := waiting .aenWait 0 [idlePins]
    legalParams s.cfg = true ∧ s.st = .aenWait ∧ noReset (s.tmr.toNat + 1) s :=
  ⟨legal_default, rfl, by unfold noReset; decide⟩

/-- A run that is busy at each of its first `n` states, checked by evaluation. -/
theorem busyFor_of_all {n : Nat} {s : State}
    (h : ∀ k, k < n → (stateAfter k s).all (fun u => !u.st.isIdle) = true) : busyFor n s := by
  intro k hk u hu
  have := h k hk
  rw [hu] at this
  simpa using this

/-- The first edges of an ATTACH, up to the acceptance of its third transaction: two served transactions, the wait, and the
adapter ready again. -/
def attachRun : State :=
  { u0 with st := .idRd, cport := .lc,
            script := serve 0 0 (.ok 0x44) ++ serve 0 0 (.ok 0) ++ List.replicate (ponTicks u0.cfg + 1) idlePins ++
              [readyPins] }

theorem wit_EnableWrites :
    legalParams attachRun.cfg = true ∧ attachRun.st = .idRd ∧ attachRun.xq = false ∧ noReset 16 attachRun ∧
      busyFor 16 attachRun ∧ (issued 16 attachRun).length = 3 :=
  ⟨legal_default, rfl, rfl, by unfold noReset; decide, busyFor_of_all (by decide), by decide⟩

theorem wit_SampleIsAllOrNothing :
    a44.st = .idleA ∧
    (∃ e, txRun .sample a44 [.ok 0x10, .ok 0x01, .ok 0x20, .ok 0x02, .ok 0x30, .ok 0x03, .ok 0x40, .ok 0x04] = some e) ∧
    (∃ e, txRun .sample a44 [.ok 0x10, .ok 0x01, .err 0x05] = some e) := ⟨rfl, ⟨_, rfl⟩, ⟨_, rfl⟩⟩

/-- SETGAIN accepted, its write accepted and completed: idle again after two more edges. -/
def gainRun : State := offering a44 (.req 0x0503) [readyPins, answerPins (.ok 0), idlePins]

theorem wit_ClockedRun :
    gainRun.Inv ∧ gainRun.st.isIdle = true ∧ noReset 3 gainRun ∧
      offeredCommand gainRun.input = some (.setgain 0x03) ∧
      ∃ s1 t, exec (.setgain 0x03) gainRun = .next s1 ∧ busyFor 2 s1.advance ∧
        stateAfter 2 s1.advance = some t ∧ t.st.isIdle = true :=
  ⟨inv_a44 _, rfl, by unfold noReset; decide, by decide, _, _, rfl, busyFor_of_all (by decide), rfl, rfl⟩

/-- A read's last edge with the next command already offered, and the edge at which it is taken. -/
def holding (p : Payload) : State :=
  { awaiting .rdHi .req { a44 with cop := 0x01, lo := 0x34 } with
    script := [{ offerPins p with xrValid := true, xrOk := true, xrRdata := 0x12 }, offerPins p, idlePins] }

theorem wit_HeldCommand_req :
    ∃ t, stateAfter 1 (holding (.req 0x0503)) = some t ∧ legalParams t.cfg = true ∧
      heldFor (fun u => u.input.reqValid) reqReady 1 (holding (.req 0x0503)) ∧
      (holding (.req 0x0503)).input.reqValid = true ∧ reqReady t = true := by
  refine ⟨_, rfl, legal_default, ?_, rfl, rfl⟩
  intro k hk
  obtain rfl : k = 0 := by omega
  exact ⟨_, _, rfl, rfl, rfl, rfl, rfl, fun _ _ _ => rfl, fun h => nomatch h⟩

/-- V61: DETACH offered while a channel read is in progress. -/
theorem wit_HeldCommand_lc :
    ∃ t, stateAfter 1 (holding (.lc 1)) = some t ∧ legalParams t.cfg = true ∧
      heldFor (fun u => u.input.lcValid) lcReady 1 (holding (.lc 1)) ∧
      (holding (.lc 1)).input.lcValid = true ∧ lcReady t = true := by
  refine ⟨_, rfl, legal_default, ?_, rfl, rfl⟩
  intro k hk
  obtain rfl : k = 0 := by omega
  exact ⟨_, _, rfl, rfl, rfl, rfl, rfl, (fun h => nomatch h), fun _ _ _ => rfl⟩

/-- The host may take a `valid` back, or change what it offers next, without breaking its duty (60_exceptions.md R335). -/
theorem wit_hostDuty_taken_back (s t : State) (h : t.input.reqValid = false) (h' : t.input.lcValid = false) : hostDuty s t :=
  ⟨fun _ _ hv => by simp [h] at hv, fun _ _ hv => by simp [h'] at hv⟩

end Sys2Proof.Tests
end

section
/-! The build-time parameters (00_scope.md R7, R8): the tick counts, the legal sets, which steps refuse a set, and that no
edge changes one. -/

namespace Sys2Proof.Machine

/-! ### Tick counts -/

theorem le_ticksOfMs (ms fClkHz : Nat) : ms * fClkHz ≤ 1000 * ticksOfMs ms fClkHz := by
  unfold ticksOfMs; omega

theorem ticksOfMs_lt (ms fClkHz : Nat) : 1000 * ticksOfMs ms fClkHz < ms * fClkHz + 1000 := by
  unfold ticksOfMs; omega

/-- Settles O8: both tick counts are `ticksOfMs`, whose rounding is bounded from both sides. -/
theorem tickCountsAreTheDelaysRoundedUp : Obligations.TickCountsAreTheDelaysRoundedUp := fun p =>
  ⟨le_ticksOfMs p.tPonMs p.fClkHz, ticksOfMs_lt p.tPonMs p.fClkHz,
   le_ticksOfMs p.tAenMs p.fClkHz, ticksOfMs_lt p.tAenMs p.fClkHz⟩

/-! ### Legal parameter sets -/

/-- The bit test `v &&& (v - 1) = 0` on a nonzero byte finds exactly the eight powers of two. -/
theorem singleBit_iff (v : Byte) : singleBit v = true ↔ ∃ k, k < 8 ∧ v = BitVec.ofNat 8 (2 ^ k) := by
  revert v; decide

/-- The model's check of a parameter set decides the constraints of 00_scope.md R7. -/
theorem legalParams_iff (p : Params) : legalParams p = true ↔ ParameterConstraints p := by
  simp only [legalParams, ParameterConstraints, Bool.and_eq_true, decide_eq_true_eq, beq_iff_eq, singleBit_iff, and_assoc]

theorem step_illegal {s : State} (hl : legalParams s.cfg = false) : step s = .refused .illegalParameters := by
  unfold step
  rw [if_pos hl]

/-- The edge in an idle state at which no command is offered. -/
theorem step_quiet {s : State} (hl : legalParams s.cfg = true) (hr : s.input.rst = false)
    (hi : s.st.isIdle = true) (ho : offeredCommand s.input = none) : step s = .next (quiet s).advance := by
  unfold step
  rw [if_neg (by simp [hl]), if_neg (by simp [hr]), ho]
  simp [noCommandEdge, hi]

/-- The converse of `step_cases`: with legal parameters each of its four kinds of edge has a next state. -/
theorem step_total {s : State} (hl : legalParams s.cfg = true) : ∃ t, step s = .next t := by
  cases hr : s.input.rst with
  | true => exact ⟨_, step_reset hl hr⟩
  | false =>
    cases hi : s.st.isIdle with
    | false => exact ⟨_, step_busy hl hr hi⟩
    | true =>
      cases ho : offeredCommand s.input with
      | none => exact ⟨_, step_quiet hl hr hi ho⟩
      | some i => exact ⟨_, step_taken hl hr hi ho⟩

/-- Settles O14: `legalParams` is the constraints, and it alone decides between a next state and the refusal. -/
theorem onlyIllegalParametersAreRefused : Obligations.OnlyIllegalParametersAreRefused := fun s =>
  ⟨fun hc => step_total ((legalParams_iff s.cfg).mpr hc),
   fun hc => step_illegal (Bool.eq_false_iff.mpr fun hl => hc ((legalParams_iff s.cfg).mp hl))⟩

/-! ### No edge changes the parameters -/

@[simp] theorem resetEdge_cfg (s : State) : (resetEdge s).cfg = s.cfg := rfl

@[simp] theorem startXact_cfg (x : Xact) (s : State) : (startXact x s).cfg = s.cfg := rfl

@[simp] theorem finishXact_cfg (x : Xact) (r : XResult) (s : State) : (finishXact x r s).cfg = s.cfg :=
  completeXact_cfg r _

@[simp] theorem acceptOf_cfg (i : Instr) (s : State) : (acceptOf i s).cfg = s.cfg := (acceptOf_frame i s).1

theorem waitEdge_cfg {expired : State → State} {s : State} (h : (expired s).cfg = s.cfg) :
    (waitEdge expired s).cfg = s.cfg := by
  unfold waitEdge
  split
  · exact h
  · rfl

theorem busyEdge_cfg {s : State} (hi : s.st.isIdle = false) : (busyEdge s).cfg = s.cfg := by
  obtain ⟨x, -, -, hx⟩ | ⟨-, -, hw⟩ := busyEdge_cases s hi
  · obtain ⟨-, -, h⟩ | ⟨-, -, h⟩ | ⟨-, -, h⟩ | ⟨-, -, h⟩ := hx <;> simp [h]
  · obtain ⟨-, h⟩ | ⟨-, h⟩ | ⟨-, h⟩ := hw <;> rw [h]
    · exact waitEdge_cfg rfl
    · exact waitEdge_cfg rfl
    · rfl

theorem step_cfg {s t : State} (h : step s = .next t) : t.cfg = s.cfg := by
  obtain ⟨-, ⟨-, rfl⟩ | ⟨-, hi, rfl⟩ | ⟨-, -, -, rfl⟩ | ⟨i, -, -, -, rfl⟩⟩ := step_cases h
  · simp
  · simp [busyEdge_cfg hi]
  · simp
  · simp

/-- Settles O15, by the four kinds of edge of `step_cases`. -/
theorem noStepChangesTheParameters : Obligations.NoStepChangesTheParameters := fun _ _ => step_cfg

end Sys2Proof.Machine
end

section
/-! The clock edge and its arbitration (10_state.md R33, R37, R50, R51, R53, R57): the reset values and the lifecycle
output, and which commands and transactions an edge takes. -/

namespace Sys2Proof.Machine

/-! ### The lifecycle output and the reset state -/

/-- Settles O9: `lcState` at each FSM code; its five values have the codes 0 to 4. -/
theorem lifecycleOutputFollowsTheFsm : Obligations.LifecycleOutputFollowsTheFsm := fun s => by
  have bound : ∀ c : Lifecycle, (lifecycleCode c).toNat ≤ 4 := fun c => by cases c <;> decide
  refine ⟨?_, ?_, ?_, ?_, ?_, ?_, ?_, bound _⟩ <;> simp +contextual [outputs, lcState, lifecycleCode, or_imp]

/-- Settles O13: every register of `State.reset` is written out in its definition. -/
theorem resetStateHoldsTheResetValues : Obligations.ResetStateHoldsTheResetValues := by
  refine ⟨rfl, rfl, rfl, rfl, rfl, rfl, rfl, rfl, rfl, rfl, rfl, rfl, fun c => ?_, rfl, rfl, rfl, rfl, rfl⟩
  cases c <;> rfl

/-! ### Which command an edge takes -/

/-- Without reset and with legal parameters, the edge at which a command is offered is that command's `exec`. -/
theorem step_offered {s : State} {i : Instr} (hl : legalParams s.cfg = true) (hr : s.input.rst = false)
    (ho : offeredCommand s.input = some i) : step s = mapNext State.advance (exec i s) := by
  unfold step
  rw [if_neg (by simp [hl]), if_neg (by simp [hr]), ho]

/-- Settles O10: the offered command is the decoding of the payload offered first. -/
theorem stepRunsTheOfferedCommand : Obligations.StepRunsTheOfferedCommand := by
  rintro s p i hl hr hp rfl
  exact step_offered hl hr (by rw [offeredCommand, hp]; rfl)

/-- The order of the ports: REQ, SMP, LC (10_state.md R51). -/
theorem offeredCommand_req {e : EdgeIn} (h : e.reqValid = true) : offeredCommand e = some (decodeReq e.reqWord) := by
  simp [offeredCommand, offeredPayload, h, decode]

theorem offeredCommand_smp {e : EdgeIn} (hr : e.reqValid = false) (hs : e.smpValid = true) :
    offeredCommand e = some .sample := by
  simp [offeredCommand, offeredPayload, hr, hs, decode, decodeSmp]

theorem offeredCommand_lc {e : EdgeIn} (hr : e.reqValid = false) (hs : e.smpValid = false) (hl : e.lcValid = true) :
    offeredCommand e = some (decodeLc e.lcOp) := by
  simp [offeredCommand, offeredPayload, hr, hs, hl, decode]

theorem offeredCommand_none {e : EdgeIn} (hr : e.reqValid = false) (hs : e.smpValid = false)
    (hl : e.lcValid = false) : offeredCommand e = none := by
  simp [offeredCommand, offeredPayload, hr, hs, hl]

/-- Settles O11: the ready outputs are their definitions, an idle edge takes the offered command, and outside IDLE
`exec` of any command is the busy edge. -/
theorem commandsAreTakenOnlyInIdleInPortOrder : Obligations.CommandsAreTakenOnlyInIdleInPortOrder := by
  intro s
  refine ⟨fun hr => ?_, fun hr => ?_, fun hl hr hi => ⟨fun h1 => ?_, fun h1 h2 => ?_, fun h1 h2 h3 => ?_,
    fun h1 h2 h3 => ?_⟩, fun hl hr hi i => ?_⟩
  · simp [reqReady, smpReady, lcReady, hr]
  · simp [reqReady, smpReady, lcReady, hr]
  · exact step_offered hl hr (offeredCommand_req h1)
  · exact step_offered hl hr (offeredCommand_smp h1 h2)
  · exact step_offered hl hr (offeredCommand_lc h1 h2 h3)
  · exact step_quiet hl hr hi (offeredCommand_none h1 h2 h3)
  · rw [exec_busy i s hi, mapNext_next, step_busy hl hr hi]

/-! ### The transaction arm and the unused codes -/

theorem isIdle_of_isXfer {st : Fsm} (h : st.isXfer = true) : st.isIdle = false := by
  revert h; cases st <;> simp [Fsm.isXfer, Fsm.isIdle]

theorem isIdle_of_isUnused {st : Fsm} (h : st.isUnused = true) : st.isIdle = false := by
  revert h; cases st <;> simp [Fsm.isUnused, Fsm.isIdle]

/-- In a transaction state the edge is the transaction arm of the state's transaction. -/
theorem step_xfer {s : State} {x : Xact} (hl : legalParams s.cfg = true) (hr : s.input.rst = false)
    (hx : xactOf s = some x) : step s = .next (xferEdge x s).advance := by
  rw [step_busy hl hr (isIdle_of_xactOf hx), busyEdge_xfer hx]

@[simp] theorem finishXact_xq (x : Xact) (r : XResult) (s : State) : (finishXact x r s).xq = false :=
  completeXact_xq r _

/-- Settles O22, by the four branches of the transaction arm. -/
theorem transactionHandshake : Obligations.TransactionHandshake := by
  intro s hl hr hxf
  obtain ⟨x, hx⟩ := xactOf_some hxf
  rw [step_xfer hl hr hx]
  unfold xferEdge
  refine ⟨fun hq hn => ?_, fun hq hn => ⟨sensorStart x s.sensor, ?_⟩, fun hq hv => ?_, fun hq hv => ?_⟩
  · simp [hq, hn, quiet]
  · simp [hq, hn, quiet, startXact]
  · simp [hq, hv, quiet]
  · exact ⟨_, rfl, by simp [hq, hv]⟩

theorem isUnused_of_le_code {st : Fsm} (h : 0xC ≤ st.code.toNat) : st.isUnused = true := by
  revert h; cases st <;> decide

theorem xactOf_unused {s : State} (h : s.st.isUnused = true) : xactOf s = none := by
  revert h; unfold xactOf; cases s.st <;> simp [Fsm.isUnused]

theorem busyEdge_unused {s : State} (h : s.st.isUnused = true) : busyEdge s = { quiet s with st := .idleU } := by
  unfold busyEdge
  rw [xactOf_unused h]
  revert h
  cases s.st <;> simp [Fsm.isUnused]

/-- No transaction is accepted in a state that performs none. -/
theorem acceptedXact_none {s : State} (h : xactOf s = none) : acceptedXact s = none := by
  simp [acceptedXact, offeredXact, h]

/-- Settles O33: an unused code has no transaction, and its edge is the busy edge to IDLE_U. -/
theorem unusedFsmCodesGoToIdleU : Obligations.UnusedFsmCodesGoToIdleU := by
  intro s hl hr hc
  have hu := isUnused_of_le_code hc
  refine ⟨?_, acceptedXact_none (xactOf_unused hu)⟩
  rw [step_busy hl hr (isIdle_of_isUnused hu), busyEdge_unused hu]
  rfl

end Sys2Proof.Machine
end

section
/-! Noninterference of the input pins (10_state.md R58): an edge samples the reset, then the offered command in an idle
state, or the pins of the transaction arm's next step in a transaction state; all other pins are ignored. -/

namespace Sys2Proof.Machine

/-! ### The edges outside IDLE in another environment -/

theorem startXact_withEnv (x : Xact) (s : State) (m l n) :
    startXact x (s.withEnv m l n) = (startXact x s).withEnv (sensorStart x m) l n := rfl

theorem finishXact_withEnv (x : Xact) (r : XResult) (s : State) (m l n) :
    finishXact x r (s.withEnv m l n) = (completeXact r { s with xq := false }).withEnv (sensorFinish x r m) l n :=
  completeXact_withEnv r { s with xq := false } (sensorFinish x r m) l n

theorem waitEdge_withEnv {expired : State → State} {m l n}
    (h : ∀ s : State, expired (s.withEnv m l n) = (expired s).withEnv m l n) (s : State) :
    waitEdge expired (s.withEnv m l n) = (waitEdge expired s).withEnv m l n := by
  unfold waitEdge
  by_cases ht : s.tmr = 0
  · rw [if_pos ht, if_pos (c := (s.withEnv m l n).tmr = 0) ht, h]
  · rw [if_neg ht, if_neg (c := (s.withEnv m l n).tmr = 0) ht]
    rfl

/-- A busy edge that is not of the transaction arm samples no pin and leaves the environment alone. -/
theorem busyEdge_withEnv {s : State} (hx : xactOf s = none) (m l n) :
    busyEdge (s.withEnv m l n) = (busyEdge s).withEnv m l n := by
  have hx' : xactOf (s.withEnv m l n) = none := hx
  unfold busyEdge
  rw [hx, hx']
  rcases s with ⟨cfg, st, xq, pwr, fail, fxerr, chipId, tmr, cport, cop, carg, ch, lo, buf, rv, rp, rs, rx, rd, _, _, _⟩
  cases st
  case ponWait => exact waitEdge_withEnv (expired := fun t => { t with st := .aenWr }) (fun _ => rfl) (quiet _)
  case aenWait => exact waitEdge_withEnv (expired := attachDone) (fun _ => rfl) (quiet _)
  all_goals rfl

/-! ### What an edge samples -/

/-- Two pin records agree on everything an edge from `s` samples. -/
structure SampledAlike (s : State) (e e' : EdgeIn) : Prop where
  rst : e'.rst = e.rst
  offered : s.st.isIdle = true → offeredCommand e' = offeredCommand e
  ready : e'.xtReady = e.xtReady
  answered : s.st.isXfer = true → s.xq = true → e'.xrValid = e.xrValid ∧ resultOf e' = resultOf e

section
variable {s : State} {e e' : EdgeIn} (h : SampledAlike s e e') (m : Memory) (l : List EdgeIn) (n : Nat)
include h

theorem xferEdge_sampledAlike (x : Xact) (hxf : s.st.isXfer = true) :
    (xferEdge x (s.withEnv m (e :: l) n)).advance = (xferEdge x (s.withEnv m (e' :: l) n)).advance := by
  have xq_eq : ∀ l, (s.withEnv m l n).xq = s.xq := fun _ => rfl
  have input_eq : ∀ e, (s.withEnv m (e :: l) n).input = e := fun _ => rfl
  simp only [xferEdge, xq_eq, input_eq, quiet_withEnv, startXact_withEnv, finishXact_withEnv]
  cases hq : s.xq with
  | false =>
    rw [h.ready]
    cases e.xtReady <;> rfl
  | true =>
    obtain ⟨hv, hres⟩ := h.answered hxf hq
    rw [hv, hres]
    cases e.xrValid <;> rfl

theorem busyEdge_sampledAlike :
    (busyEdge (s.withEnv m (e :: l) n)).advance = (busyEdge (s.withEnv m (e' :: l) n)).advance := by
  cases hx : xactOf s with
  | some x =>
    rw [busyEdge_xfer (x := x) (by simpa using hx), busyEdge_xfer (x := x) (by simpa using hx)]
    exact xferEdge_sampledAlike h m l n x (by rw [← xactOf_isSome, hx]; rfl)
  | none => rw [busyEdge_withEnv hx, busyEdge_withEnv hx, advance_withEnv, advance_withEnv]; rfl

/-- The edge is the same for any two pin records that agree on what it samples. -/
theorem step_sampledAlike : step (s.withEnv m (e :: l) n) = step (s.withEnv m (e' :: l) n) := by
  cases hl : legalParams s.cfg with
  | false => rw [step_illegal (s := s.withEnv m (e :: l) n) hl, step_illegal (s := s.withEnv m (e' :: l) n) hl]
  | true =>
  cases hr : e.rst with
  | true =>
    rw [step_reset (s := s.withEnv m (e :: l) n) hl hr, step_reset (s := s.withEnv m (e' :: l) n) hl (h.rst.trans hr)]
    rfl
  | false =>
  have hr' := h.rst.trans hr
  cases hi : s.st.isIdle with
  | false =>
    rw [step_busy (s := s.withEnv m (e :: l) n) hl hr hi, step_busy (s := s.withEnv m (e' :: l) n) hl hr' hi,
      busyEdge_sampledAlike h]
  | true =>
  have ho' := h.offered hi
  cases ho : offeredCommand e with
  | none =>
    rw [step_quiet (s := s.withEnv m (e :: l) n) hl hr hi ho,
      step_quiet (s := s.withEnv m (e' :: l) n) hl hr' hi (ho'.trans ho)]
    rfl
  | some i =>
    rw [step_taken (s := s.withEnv m (e :: l) n) hl hr hi ho,
      step_taken (s := s.withEnv m (e' :: l) n) hl hr' hi (ho'.trans ho),
      acceptOf_withEnv, acceptOf_withEnv, advance_withEnv, advance_withEnv]
    rfl

end

theorem offeredCommand_reqWord {e : EdgeIn} (h : e.reqValid = false) (w : Word) :
    offeredCommand { e with reqWord := w } = offeredCommand e := by
  simp [offeredCommand, offeredPayload, h]

theorem offeredCommand_lcOp {e : EdgeIn} (h : e.reqValid = true ∨ e.smpValid = true ∨ e.lcValid = false)
    (b : BitVec 1) : offeredCommand { e with lcOp := b } = offeredCommand e := by
  rcases h with h | h | h <;> simp [offeredCommand, offeredPayload, h]

/-- Settles O24: in each case the two pin records are sampled alike. -/
theorem inputsInTheWrongStateAreIgnored : Obligations.InputsInTheWrongStateAreIgnored := by
  intro s e rest v ok d err
  refine ⟨fun hs => ?_, fun hi rv sv lv w b => ?_, fun hv w => ?_, fun hv b => ?_⟩ <;>
    refine step_sampledAlike (s := s) ?_ s.sensor rest s.edge
  · refine ⟨rfl, fun _ => rfl, rfl, fun hxf hq => ?_⟩
    rcases hs with hs | hs <;> simp [hs] at hxf hq
  · exact ⟨rfl, fun hid => by simp [hi] at hid, rfl, fun _ _ => ⟨rfl, rfl⟩⟩
  · exact ⟨rfl, fun _ => offeredCommand_reqWord hv w, rfl, fun _ _ => ⟨rfl, rfl⟩⟩
  · exact ⟨rfl, fun _ => offeredCommand_lcOp hv b, rfl, fun _ _ => ⟨rfl, rfl⟩⟩

end Sys2Proof.Machine
end

section
/-! The invariant of the block: the register invariants read off one FSM state at a time, kept by every kind of edge
(10_state.md R37 to R39, R57; 60_exceptions.md R300, R320). -/

namespace Sys2Proof.Machine

/-! ### The register invariants per FSM state -/

/-- What the handle registers, the timer and the command registers satisfy in the FSM state the block is in. -/
def StageInv (s : State) : Prop :=
  match s.st with
  | .idleU => NoHandle s ∧ s.tmr = 0
  | .idRd => NoHandle s ∧ s.tmr = 0 ∧ s.cport = .lc
  | .ponWr => (Identified s ∧ s.pwr = .off) ∧ s.tmr = 0 ∧ s.cport = .lc
  | .ponWait => (Identified s ∧ s.pwr = .powered) ∧ s.tmr.toNat ≤ ponTicks s.cfg ∧ s.cport = .lc
  | .aenWr => (Identified s ∧ s.pwr = .powered) ∧ s.tmr = 0 ∧ s.cport = .lc
  | .aenWait => (Identified s ∧ s.pwr = .active) ∧ s.tmr.toNat ≤ aenTicks s.cfg ∧ s.cport = .lc
  | .idleA => (Identified s ∧ s.pwr = .active) ∧ s.tmr = 0
  | .rdLo | .rdHi => (Identified s ∧ s.pwr = .active) ∧ s.tmr = 0 ∧
      (s.cport = .smp ∨ (s.cport = .req ∧ s.cop.toNat = s.ch.code.toNat + 1))
  | .cfgWr => (Identified s ∧ s.pwr = .active) ∧ s.tmr = 0 ∧ s.cport = .req ∧ (s.cop = 0x05 ∨ s.cop = 0x06)
  | .tdWr => ((Identified s ∧ s.pwr = .active) ∨ FailedPowered s) ∧ s.tmr = 0 ∧ s.cport = .lc
  | .idleF => FailedHandle s ∧ s.tmr = 0
  | .unusedC | .unusedD | .unusedE | .unusedF => False

theorem stageInv_iff (s : State) : StageInv s ↔ HandleInv s ∧ TimerInv s ∧ CommandInv s := by
  cases hs : s.st <;> simp [StageInv, HandleInv, TimerInv, CommandInv, Fsm.isUnused, Fsm.isWait, hs, and_assoc]

theorem State.Inv.stage {s : State} (h : s.Inv) : StageInv s := (stageInv_iff s).mpr ⟨h.handle, h.timer, h.command⟩

theorem State.Inv.of_stage {s : State} (cfg : legalParams s.cfg = true) (sensor : Memory.wf s.sensor = true)
    (xfer : XferInv s) (stage : StageInv s) (response : ResponseInv s) : s.Inv :=
  have ⟨handle, timer, command⟩ := (stageInv_iff s).mp stage
  { cfg, sensor, handle, xfer, timer, command, response }

/-- The per-state invariant at a known FSM state. -/
theorem StageInv.at {s : State} {st : Fsm} (h : StageInv s) (hs : s.st = st) : StageInv { s with st := st } := by
  subst hs; exact h

theorem State.Inv.xq_of_idle {s : State} (h : s.Inv) (hi : s.st.isIdle = true) : s.xq = false := by
  cases hq : s.xq with
  | false => rfl
  | true => rw [isIdle_of_isXfer (h.xfer hq)] at hi; cases hi

/-- Neither the pins to come nor the edge count is part of the invariant, nor is `rsp_valid`. -/
theorem State.Inv.advance {s : State} (h : s.Inv) : s.advance.Inv :=
  ⟨h.cfg, h.sensor, h.handle, h.xfer, h.timer, h.command, h.response⟩

theorem State.Inv.quiet {s : State} (h : s.Inv) : (quiet s).Inv :=
  ⟨h.cfg, h.sensor, h.handle, h.xfer, h.timer, h.command, h.response⟩

/-- Settles O39: every conjunct is about written-out reset values. -/
theorem resetMeetsTheInvariant : Obligations.ResetMeetsTheInvariant :=
  .of_stage (by decide) wf_reset_sensor (by decide) ⟨⟨rfl, rfl, rfl, rfl⟩, rfl⟩ (by decide)

theorem State.Inv.resetEdge {s : State} (h : s.Inv) : (resetEdge s).Inv :=
  have ⟨_, _, handle, xfer, _, command, response⟩ := resetMeetsTheInvariant
  ⟨h.cfg, h.sensor, handle, xfer, ⟨fun _ => rfl, nofun, nofun⟩, command, response⟩

/-! ### Completion edges -/

theorem failAttach_stageInv {reason : FailReason} {e : Byte} {s : State} (ht : s.tmr = 0)
    (h : FailedHandle { s with fail := reason, fxerr := e }) : StageInv (failAttach reason e s) := ⟨h, ht⟩

theorem doneIdRd_stageInv (r : XResult) {s : State} (hn : NoHandle s) (ht : s.tmr = 0) (hc : s.cport = .lc) :
    StageInv (doneIdRd r s) := by
  obtain ⟨hp, hf, hx, hid⟩ := hn
  cases r with
  | ok b =>
    simp only [doneIdRd]
    split
    · next hb => exact ⟨⟨⟨hf, hx, hb⟩, hp⟩, ht, hc⟩
    · next hb => exact ⟨.inl ⟨rfl, hp, hx, Bool.eq_false_iff.mpr hb⟩, ht⟩
  | err e => exact failAttach_stageInv ht (.inr (.inl ⟨rfl, hp, hid⟩))

theorem donePonWr_stageInv (r : XResult) {s : State} (hi : Identified s) (hp : s.pwr = .off) (ht : s.tmr = 0)
    (hc : s.cport = .lc) : StageInv (donePonWr r s) := by
  obtain ⟨hf, hx, hid⟩ := hi
  cases r with
  | ok _ => exact ⟨⟨⟨hf, hx, hid⟩, rfl⟩, Nat.le_trans (Nat.le_of_eq (BitVec.toNat_ofNat ..)) (Nat.mod_le ..), hc⟩
  | err e => exact failAttach_stageInv ht (.inr (.inr (.inl ⟨rfl, hp, hid⟩)))

theorem doneAenWr_stageInv (r : XResult) {s : State} (hi : Identified s) (hp : s.pwr = .powered) (ht : s.tmr = 0)
    (hc : s.cport = .lc) : StageInv (doneAenWr r s) := by
  obtain ⟨hf, hx, hid⟩ := hi
  cases r with
  | ok _ => exact ⟨⟨⟨hf, hx, hid⟩, rfl⟩, Nat.le_trans (Nat.le_of_eq (BitVec.toNat_ofNat ..)) (Nat.mod_le ..), hc⟩
  | err e => exact failAttach_stageInv ht (.inr (.inr (.inr ⟨rfl, hp, hid⟩)))

theorem continueWord_stageInv (w : Word) {s : State} (ha : Identified s ∧ s.pwr = .active) (ht : s.tmr = 0) :
    StageInv (continueWord w s) := by
  unfold continueWord
  split
  · split
    · exact ⟨ha, ht⟩
    · next hc _ => exact ⟨ha, ht, .inl hc⟩
  all_goals exact ⟨ha, ht⟩

theorem doneTdWr_stageInv (r : XResult) {s : State} (ht : s.tmr = 0) : StageInv (doneTdWr r s) := by
  cases r <;> exact ⟨⟨rfl, rfl, rfl, rfl⟩, ht⟩

/-- Each completion rule leads from its own state's invariant to that of the state it enters. -/
theorem completeXact_stageInv (r : XResult) {s : State} (h : StageInv s) : StageInv (completeXact r s) := by
  unfold completeXact
  cases hs : s.st <;> replace h := h.at hs
  case idRd =>
    obtain ⟨hn, ht, hc⟩ := h
    exact doneIdRd_stageInv r hn ht hc
  case ponWr =>
    obtain ⟨⟨hi, hp⟩, ht, hc⟩ := h
    exact donePonWr_stageInv r hi hp ht hc
  case aenWr =>
    obtain ⟨⟨hi, hp⟩, ht, hc⟩ := h
    exact doneAenWr_stageInv r hi hp ht hc
  case rdLo =>
    obtain ⟨ha, ht, hc⟩ := h
    cases r
    · exact ⟨ha, ht, hc⟩
    · exact ⟨ha, ht⟩
  case rdHi =>
    obtain ⟨ha, ht, hc⟩ := h
    cases r
    · exact continueWord_stageInv _ ha ht
    · exact ⟨ha, ht⟩
  case cfgWr =>
    obtain ⟨ha, ht, -⟩ := h
    cases r <;> exact ⟨ha, ht⟩
  case tdWr =>
    obtain ⟨-, ht, -⟩ := h
    exact doneTdWr_stageInv r ht
  all_goals (rw [← hs] at h; exact h)

theorem raiseTransport_responseInv (p : Port) (e : Byte) (s : State) : ResponseInv (raiseTransport p e s) := by
  simp [ResponseInv, raiseTransport]

theorem failAttach_responseInv (reason : FailReason) (e : Byte) (s : State) :
    ResponseInv (failAttach reason e s) := by
  simp [ResponseInv, failAttach]

theorem continueWord_responseInv (w : Word) {s : State} (h : ResponseInv s) : ResponseInv (continueWord w s) := by
  unfold continueWord
  split
  · split
    · simp [ResponseInv, sampleDone]
    · exact h
  all_goals simp [ResponseInv, channelDone]

/-- A completion rule leaves the response register alone or puts a response of 60_exceptions.md R300 into it. -/
theorem completeXact_responseInv (r : XResult) {s : State} (h : ResponseInv s) : ResponseInv (completeXact r s) := by
  unfold completeXact
  cases s.st
  case idRd =>
    cases r
    · simp only [doneIdRd]
      split
      · exact h
      · simp [ResponseInv]
    · exact failAttach_responseInv _ _ _
  case ponWr | aenWr =>
    cases r
    · exact h
    · exact failAttach_responseInv _ _ _
  case rdLo =>
    cases r
    · exact h
    · exact raiseTransport_responseInv _ _ _
  case rdHi =>
    cases r
    · exact continueWord_responseInv _ h
    · exact raiseTransport_responseInv _ _ _
  case cfgWr =>
    cases r
    · simp [ResponseInv, doneCfgWr]
    · exact raiseTransport_responseInv _ _ _
  case tdWr => cases r <;> simp [ResponseInv, doneTdWr]
  all_goals exact h

@[simp] theorem finishXact_sensor (x : Xact) (r : XResult) (s : State) :
    (finishXact x r s).sensor = sensorFinish x r s.sensor := (completeXact_env r _).1

theorem State.Inv.finishXact {s : State} (x : Xact) (r : XResult) (h : s.Inv) : (finishXact x r s).Inv := by
  refine .of_stage ?_ ?_ ?_ (completeXact_stageInv r h.stage) (completeXact_responseInv r h.response)
  · rw [finishXact_cfg]; exact h.cfg
  · rw [finishXact_sensor]
    exact wf_sensorFinish x r s.sensor h.sensor
  · simp [XferInv]

/-! ### The other busy edges -/

theorem State.Inv.startXact {s : State} (x : Xact) (hx : s.st.isXfer = true) (h : s.Inv) : (startXact x s).Inv :=
  ⟨h.cfg, wf_sensorStart x s.sensor h.sensor, h.handle, fun _ => hx, h.timer, h.command, h.response⟩

/-- A settling wait counts down, or its end keeps the invariant. -/
theorem State.Inv.waitEdge {expired : State → State} {s : State} (hw : s.st.isWait = true) (h : s.Inv)
    (he : s.tmr = 0 → (expired s).Inv) : (waitEdge expired s).Inv := by
  unfold Machine.waitEdge
  split
  · next ht => exact he ht
  · next ht =>
    have hle : (s.tmr - 1).toNat ≤ s.tmr.toNat := by bv_omega
    obtain ⟨-, hpon, haen⟩ := h.timer
    exact ⟨h.cfg, h.sensor, h.handle, h.xfer, ⟨fun hn => absurd (hw.symm.trans hn) (by decide),
      fun hs => Nat.le_trans hle (hpon hs), fun hs => Nat.le_trans hle (haen hs)⟩, h.command, h.response⟩

theorem ponWait_expired_inv {s : State} (hs : s.st = .ponWait) (h : s.Inv) (ht : s.tmr = 0) :
    State.Inv { s with st := .aenWr } := by
  obtain ⟨hp, _, hc⟩ := h.stage.at hs
  exact .of_stage h.cfg h.sensor (fun _ => rfl) ⟨hp, ht, hc⟩ h.response

theorem attachDone_inv {s : State} (hs : s.st = .aenWait) (h : s.Inv) (ht : s.tmr = 0) : (attachDone s).Inv := by
  obtain ⟨ha, _, _⟩ := h.stage.at hs
  have hq : s.xq = true → False := fun hq => by simpa [hs, Fsm.isXfer] using h.xfer hq
  exact .of_stage h.cfg h.sensor (fun hq' => (hq hq').elim) ⟨ha, ht⟩ (by simp [ResponseInv, attachDone])

theorem State.Inv.busyEdge {s : State} (hi : s.st.isIdle = false) (h : s.Inv) : (busyEdge s).Inv := by
  have hq := h.quiet
  obtain ⟨x, -, hx, ⟨-, -, e⟩ | ⟨-, -, e⟩ | ⟨-, -, e⟩ | ⟨-, -, e⟩⟩ | ⟨-, -, ⟨hs, e⟩ | ⟨hs, e⟩ | ⟨hu, -⟩⟩ :=
    busyEdge_cases s hi
  · rw [e]; exact hq
  · rw [e]; exact hq.startXact x hx
  · rw [e]; exact hq
  · rw [e]; exact hq.finishXact x _
  · rw [e]; exact hq.waitEdge (by simp [hs, Fsm.isWait]) (ponWait_expired_inv hs hq)
  · rw [e]; exact hq.waitEdge (by simp [hs, Fsm.isWait]) (attachDone_inv hs hq)
  · rw [h.handle.1] at hu; cases hu

/-! ### Accept edges -/

theorem acceptRead_stageInv {c : Channel} {op arg : Byte} {s : State} (hop : op.toNat = c.code.toNat + 1)
    (h : StageInv s) : StageInv (acceptRead c op arg s) := by
  unfold acceptRead acceptReq
  split
  · next hs =>
    obtain ⟨ha, ht⟩ := h.at hs
    exact ⟨ha, ht, .inr ⟨rfl, hop⟩⟩
  · exact h

theorem acceptConfig_stageInv {op arg : Byte} {s : State} (hop : op = 0x05 ∨ op = 0x06) (h : StageInv s) :
    StageInv (acceptConfig op arg s) := by
  unfold acceptConfig acceptReq
  split
  · next hs =>
    obtain ⟨ha, ht⟩ := h.at hs
    exact ⟨ha, ht, rfl, hop⟩
  · exact h

theorem acceptSample_stageInv {s : State} (h : StageInv s) : StageInv (acceptSample s) := by
  unfold acceptSample
  split
  · next hs =>
    obtain ⟨ha, ht⟩ := h.at hs
    exact ⟨ha, ht, .inl rfl⟩
  · exact h

theorem acceptAttach_stageInv {s : State} (h : StageInv s) : StageInv (acceptAttach s) := by
  unfold acceptAttach
  split
  · next hs =>
    obtain ⟨hn, ht⟩ := h.at hs
    exact ⟨hn, ht, rfl⟩
  · exact h

/-- In FAILED the power is on only after the second enable write (41_lifecycle.md R187). -/
theorem FailedHandle.powered {s : State} (h : FailedHandle s) (hp : s.pwr ≠ .off) : FailedPowered s := by
  obtain ⟨_, ho, _⟩ | ⟨_, ho, _⟩ | ⟨_, ho, _⟩ | h := h
  · exact absurd ho hp
  · exact absurd ho hp
  · exact absurd ho hp
  · exact h

theorem acceptDetach_stageInv {s : State} (hi : s.st.isIdle = true) (h : StageInv s) :
    StageInv (acceptDetach s) := by
  unfold acceptDetach
  cases hs : s.st <;> rw [hs] at hi <;> try cases hi
  case idleU => exact h
  case idleA =>
    obtain ⟨ha, ht⟩ := h.at hs
    exact ⟨.inl ha, ht, rfl⟩
  case idleF =>
    obtain ⟨hf, ht⟩ := h.at hs
    by_cases hp : s.pwr = .off
    · simp only [hp, reduceCtorEq, if_false, and_self, if_true]
      exact ⟨⟨hp, rfl, rfl, rfl⟩, ht⟩
    · simp only [hp, reduceCtorEq, if_false, and_false]
      exact ⟨.inr (FailedHandle.powered hf hp), ht, rfl⟩

theorem acceptOf_stageInv (i : Instr) {s : State} (hi : s.st.isIdle = true) (h : StageInv s) :
    StageInv (acceptOf i s) := by
  cases i with
  | readc _ | readr _ | readg _ | readb _ => exact acceptRead_stageInv rfl h
  | setgain _ | setatime _ => exact acceptConfig_stageInv (by decide) h
  | invalidOp _ _ => exact h
  | sample => exact acceptSample_stageInv h
  | attach => exact acceptAttach_stageInv h
  | detach => exact acceptDetach_stageInv hi h

theorem acceptReq_responseInv {op arg : Byte} {start : State → State} {s : State}
    (hs : ∀ s, ResponseInv s → ResponseInv (start s)) (h : ResponseInv s) : ResponseInv (acceptReq op arg start s) := by
  unfold acceptReq
  split
  · exact hs _ h
  · simp [ResponseInv]

theorem acceptOf_responseInv (i : Instr) {s : State} (h : ResponseInv s) : ResponseInv (acceptOf i s) := by
  cases i with
  | readc _ | readr _ | readg _ | readb _ | setgain _ | setatime _ => exact acceptReq_responseInv (fun _ h => h) h
  | invalidOp _ _ => simp [ResponseInv, acceptOf]
  | sample =>
    simp only [acceptOf, acceptSample]
    split
    · exact h
    · simp [ResponseInv]
  | attach =>
    simp only [acceptOf, acceptAttach]
    split
    · exact h
    · simp [ResponseInv]
  | detach =>
    simp only [acceptOf, acceptDetach]
    split
    · simp [ResponseInv]
    · split
      · simp [ResponseInv]
      · exact h

theorem State.Inv.acceptOf {s : State} (i : Instr) (hi : s.st.isIdle = true) (h : s.Inv) : (acceptOf i s).Inv := by
  obtain ⟨hcfg, hxq, -⟩ := acceptOf_frame i s
  obtain ⟨hsensor, -⟩ := acceptOf_env i s
  refine .of_stage ?_ ?_ ?_ (acceptOf_stageInv i hi h.stage) (acceptOf_responseInv i h.response)
  · rw [hcfg]; exact h.cfg
  · rw [hsensor]; exact h.sensor
  · rw [XferInv, hxq, h.xq_of_idle hi]; nofun

/-- Settles O40, by the four kinds of edge of `step_cases`. -/
theorem everyStepKeepsTheInvariant : Obligations.EveryStepKeepsTheInvariant := by
  intro s t h hst
  obtain ⟨-, ⟨-, rfl⟩ | ⟨-, hi, rfl⟩ | ⟨-, -, -, rfl⟩ | ⟨i, -, hi, -, rfl⟩⟩ := step_cases hst
  · exact h.resetEdge.advance
  · exact (h.busyEdge hi).advance
  · exact h.quiet.advance
  · exact (h.acceptOf i hi).advance

end Sys2Proof.Machine
end

section
/-! Which edges write `pwr`, `fail` and the response register (10_state.md R38, R39, R52, R55). -/

namespace Sys2Proof.Machine

/-- The registers of R38 and R39 have kept their values. -/
structure KeepsStatus (s t : State) : Prop where
  pwr : t.pwr = s.pwr
  fail : t.fail = s.fail

theorem waitEdge_keepsStatus {expired : State → State} {s u : State} (hu : KeepsStatus s u)
    (h : KeepsStatus s (expired u)) : KeepsStatus s (waitEdge expired u) := by
  unfold waitEdge
  split
  · exact h
  · exact ⟨hu.pwr, hu.fail⟩

/-- A busy edge without reset either consumes an answer and completes the state's transaction, or consumes none and keeps
`pwr` and `fail`. -/
theorem busyEdge_completes_or_keeps {s : State} (hr : s.input.rst = false) (hi : s.st.isIdle = false) :
    (∃ x r, s.xq = true ∧ s.st.isXfer = true ∧ consumedAnswer s = some r ∧ busyEdge s = finishXact x r (quiet s)) ∨
    (consumedAnswer s = none ∧ KeepsStatus s (busyEdge s)) := by
  obtain ⟨x, -, hx, ⟨hq, -, e⟩ | ⟨hq, -, e⟩ | ⟨-, hv, e⟩ | ⟨hq, hv, e⟩⟩ | ⟨-, hx, hw⟩ := busyEdge_cases s hi
  · exact .inr ⟨by simp [consumedAnswer, outstanding, hq], by rw [e]; exact ⟨rfl, rfl⟩⟩
  · exact .inr ⟨by simp [consumedAnswer, outstanding, hq], by rw [e]; exact ⟨rfl, rfl⟩⟩
  · exact .inr ⟨by simp [consumedAnswer, hv], by rw [e]; exact ⟨rfl, rfl⟩⟩
  · exact .inl ⟨x, resultOf s.input, hq, hx, by simp [consumedAnswer, outstanding, hr, hx, hq, hv], e⟩
  · refine .inr ⟨by simp [consumedAnswer, outstanding, hx], ?_⟩
    obtain ⟨-, e⟩ | ⟨-, e⟩ | ⟨-, e⟩ := hw <;> rw [e]
    · exact waitEdge_keepsStatus ⟨rfl, rfl⟩ ⟨rfl, rfl⟩
    · exact waitEdge_keepsStatus ⟨rfl, rfl⟩ ⟨rfl, rfl⟩
    · exact ⟨rfl, rfl⟩

theorem consumedAnswer_idle {s : State} (hi : s.st.isIdle = true) : consumedAnswer s = none := by
  have hx : s.st.isXfer = false := by
    cases hx : s.st.isXfer with
    | false => rfl
    | true => rw [isIdle_of_isXfer hx] at hi; cases hi
  simp [consumedAnswer, outstanding, hx]

/-! ### The power state -/

/-- `pwr` after an edge without reset that consumes the answer `a`, if any (10_state.md R38). -/
def powerAfter (s : State) (a : Option XResult) : Power :=
  match s.st, a with
  | .ponWr, some (.ok _) => .powered
  | .aenWr, some (.ok _) => .active
  | .tdWr, some _ => .off
  | _, _ => s.pwr

theorem powerAfter_none (s : State) : powerAfter s none = s.pwr := by
  unfold powerAfter; cases s.st <;> rfl

theorem finishXact_pwr (x : Xact) (r : XResult) (s : State) :
    (finishXact x r (quiet s)).pwr = powerAfter s (some r) := by
  unfold finishXact powerAfter
  rw [completeXact_pwr]
  simp only [quiet_st, quiet_pwr]
  cases s.st <;> cases r <;> rfl

theorem step_pwr {s t : State} (h : step s = .next t) :
    t.pwr = if s.input.rst then .off else powerAfter s (consumedAnswer s) := by
  obtain ⟨-, ⟨hr, rfl⟩ | ⟨hr, hi, rfl⟩ | ⟨hr, hi, -, rfl⟩ | ⟨i, hr, hi, -, rfl⟩⟩ := step_cases h <;> simp only [hr]
  · rfl
  · obtain ⟨x, r, -, -, ha, e⟩ | ⟨ha, hk⟩ := busyEdge_completes_or_keeps hr hi
    · rw [ha, e]; exact finishXact_pwr x r s
    · rw [ha, powerAfter_none]; exact hk.pwr
  · rw [consumedAnswer_idle hi, powerAfter_none]; rfl
  · obtain ⟨-, -, hp, -⟩ := acceptOf_frame i s
    rw [consumedAnswer_idle hi, powerAfter_none]; exact hp

/-- Settles O44, from `step_pwr`: the codes of the three power states are 0b00, 0b01 and 0b11. -/
theorem powerStateChangesOnlyByTheEnableWrites : Obligations.PowerStateChangesOnlyByTheEnableWrites := by
  intro s t h
  constructor
  · rw [step_pwr h]
    split
    · rfl
    · unfold powerAfter
      cases s.st <;> rcases consumedAnswer s with _ | _ | _ <;> rfl
  · cases t.pwr <;> decide

/-! ### The failure reason -/

/-- A completion edge that changes `fail` ends an ATTACH in FAILED or a teardown in UNINITIALIZED. -/
theorem completeXact_fail_ne {r : XResult} {s : State} (h : (completeXact r s).fail ≠ s.fail) :
    ((completeXact r s).st = .idleF ∧
      ((s.st = .idRd ∧ ((completeXact r s).fail = .idMismatch ∨ (completeXact r s).fail = .idXt)) ∨
        (s.st = .ponWr ∧ (completeXact r s).fail = .ponXt) ∨ (s.st = .aenWr ∧ (completeXact r s).fail = .aenXt))) ∨
    ((completeXact r s).st = .idleU ∧ (completeXact r s).fail = .none) := by
  rw [completeXact_fail] at h
  rw [completeXact_st, completeXact_fail]
  cases hs : s.st <;> cases r <;> simp_all

/-- The only accept edge that changes `fail` is the release without a write (41_lifecycle.md R204). -/
theorem acceptOf_fail_ne {i : Instr} {s : State} (h : (acceptOf i s).fail ≠ s.fail) :
    (acceptOf i s).st = .idleU ∧ (acceptOf i s).fail = .none := by
  by_cases hd : i = .detach
  · subst hd
    simp only [acceptOf, acceptDetach] at h ⊢
    split at h
    · exact absurd rfl h
    · split at h
      · next hf => simp [hf]
      · exact absurd rfl h
  · exact absurd (acceptOf_handle i s hd).1 h

/-- Settles O45: only completion edges, the release and the reset can change `fail`. -/
theorem failureReasonIsWrittenOnlyByAttachAndRelease : Obligations.FailureReasonIsWrittenOnlyByAttachAndRelease := by
  intro s t h hne
  obtain ⟨-, ⟨-, rfl⟩ | ⟨hr, hi, rfl⟩ | ⟨-, -, -, rfl⟩ | ⟨i, -, -, -, rfl⟩⟩ := step_cases h
  · exact .inr ⟨rfl, rfl⟩
  · obtain ⟨x, r, hq, -, -, e⟩ | ⟨-, hk⟩ := busyEdge_completes_or_keeps hr hi
    · rw [e] at hne ⊢
      obtain ⟨hst, hw⟩ | hu := completeXact_fail_ne hne
      · exact .inl ⟨hst, hr, hq, hw⟩
      · exact .inr hu
    · exact absurd hk.fail hne
  · exact absurd rfl hne
  · exact .inr (acceptOf_fail_ne hne)

/-! ### The response register -/

/-- The other response registers (10_state.md R55). -/
structure KeepsResponse (s t : State) : Prop where
  rspPort : t.rspPort = s.rspPort
  rspStatus : t.rspStatus = s.rspStatus
  rspXerr : t.rspXerr = s.rspXerr
  rspData : t.rspData = s.rspData

/-- An edge of a command from `s` to `t`: it responds exactly when the command ends, and else keeps the response. -/
structure RespondsAtEnd (s t : State) : Prop where
  valid : t.rspValid = t.st.isIdle
  keeps : t.rspValid = false → KeepsResponse s t

/-- An edge that ends no command is quiet about the response register. -/
theorem RespondsAtEnd.of_busy {s t : State} (hv : t.rspValid = false) (hi : t.st.isIdle = false)
    (hk : KeepsResponse s t) : RespondsAtEnd s t := ⟨hv.trans hi.symm, fun _ => hk⟩

theorem RespondsAtEnd.of_response {s t : State} (hv : t.rspValid = true) (hi : t.st.isIdle = true) :
    RespondsAtEnd s t := ⟨hv.trans hi.symm, fun h => by rw [hv] at h; cases h⟩

theorem RespondsAtEnd.advance {s t : State} (h : RespondsAtEnd s t) : RespondsAtEnd s t.advance :=
  ⟨h.valid, fun hv => let ⟨hp, hs, hx, hd⟩ := h.keeps hv; ⟨hp, hs, hx, hd⟩⟩

/-- While a command is in progress or taken, the block is idle after the edge exactly when the command ended at it. -/
theorem RespondsAtEnd.iff_ended {s t : State} {command : Prop} (h : RespondsAtEnd s t) (hc : command) :
    (t.rspValid = true ↔ t.st.isIdle = true ∧ command) ∧
    (t.rspValid = false → t.rspPort = s.rspPort ∧ t.rspStatus = s.rspStatus ∧ t.rspXerr = s.rspXerr ∧
      t.rspData = s.rspData) := by
  refine ⟨by rw [h.valid]; exact ⟨fun hv => ⟨hv, hc⟩, And.left⟩, fun hv => ?_⟩
  obtain ⟨hp, hs, hx, hd⟩ := h.keeps hv
  exact ⟨hp, hs, hx, hd⟩

/-- A completion rule that leaves the block busy leaves the response register alone. -/
theorem completeXact_keepsResponse {r : XResult} {s : State} (h : (completeXact r s).st.isIdle = false) :
    KeepsResponse s (completeXact r s) := by
  revert h
  rcases s with ⟨cfg, st, xq, pwr, fail, fxerr, chipId, tmr, cport, cop, carg, ch, lo, buf, rv, rp, rs, rx, rd, _, _, _⟩
  cases st <;> cases r <;> intro h <;> try first | exact ⟨rfl, rfl, rfl, rfl⟩ | cases h
  case idRd.ok b =>
    simp only [completeXact, doneIdRd] at h ⊢
    split
    · exact ⟨rfl, rfl, rfl, rfl⟩
    · next hb => simp [hb, Fsm.isIdle] at h
  case rdHi.ok b =>
    cases cport <;> cases ch <;> first | exact ⟨rfl, rfl, rfl, rfl⟩ | cases h

theorem finishXact_respondsAtEnd (x : Xact) (r : XResult) {s : State} (hx : s.st.isXfer = true) :
    RespondsAtEnd s (finishXact x r (quiet s)) := by
  have hv : (finishXact x r (quiet s)).rspValid = (finishXact x r (quiet s)).st.isIdle :=
    completeXact_rspValid r { s with xq := false, sensor := sensorFinish x r s.sensor } hx
  refine ⟨hv, fun h => ?_⟩
  obtain ⟨hp, hs, hxe, hd⟩ := completeXact_keepsResponse (hv.symm.trans h)
  exact ⟨hp, hs, hxe, hd⟩

theorem busyEdge_respondsAtEnd {s : State} (h : s.Inv) (hi : s.st.isIdle = false) : RespondsAtEnd s (busyEdge s) := by
  have hq : RespondsAtEnd s (quiet s) := .of_busy rfl hi ⟨rfl, rfl, rfl, rfl⟩
  obtain ⟨x, -, hx, ⟨-, -, e⟩ | ⟨-, -, e⟩ | ⟨-, -, e⟩ | ⟨-, -, e⟩⟩ | ⟨-, -, ⟨hs, e⟩ | ⟨hs, e⟩ | ⟨hu, -⟩⟩ :=
    busyEdge_cases s hi
  · rw [e]; exact hq
  · rw [e]; exact .of_busy rfl hi ⟨rfl, rfl, rfl, rfl⟩
  · rw [e]; exact hq
  · rw [e]; exact finishXact_respondsAtEnd x _ hx
  · rw [e, waitEdge]
    split
    · exact .of_busy rfl rfl ⟨rfl, rfl, rfl, rfl⟩
    · exact .of_busy rfl hi ⟨rfl, rfl, rfl, rfl⟩
  · rw [e, waitEdge]
    split
    · exact .of_response rfl rfl
    · exact .of_busy rfl hi ⟨rfl, rfl, rfl, rfl⟩
  · rw [h.handle.1] at hu; cases hu

theorem acceptReq_respondsAtEnd {op arg : Byte} {start : State → State} {s : State} (hi : s.st.isIdle = true)
    (hs : RespondsAtEnd s (start { quiet s with cport := .req, cop := op, carg := arg })) :
    RespondsAtEnd s (acceptReq op arg start s) := by
  unfold acceptReq
  split
  · exact hs
  · exact .of_response rfl hi

theorem acceptRead_respondsAtEnd (c : Channel) (op arg : Byte) {s : State} (hi : s.st.isIdle = true) :
    RespondsAtEnd s (acceptRead c op arg s) :=
  acceptReq_respondsAtEnd hi (.of_busy rfl rfl ⟨rfl, rfl, rfl, rfl⟩)

theorem acceptConfig_respondsAtEnd (op arg : Byte) {s : State} (hi : s.st.isIdle = true) :
    RespondsAtEnd s (acceptConfig op arg s) :=
  acceptReq_respondsAtEnd hi (.of_busy rfl rfl ⟨rfl, rfl, rfl, rfl⟩)

/-- An accept rule starts a command quietly or answers it at once (10_state.md R52). -/
theorem acceptOf_respondsAtEnd (i : Instr) {s : State} (hi : s.st.isIdle = true) :
    RespondsAtEnd s (acceptOf i s) := by
  cases i with
  | readc _ | readr _ | readg _ | readb _ => exact acceptRead_respondsAtEnd _ _ _ hi
  | setgain _ | setatime _ => exact acceptConfig_respondsAtEnd _ _ hi
  | invalidOp _ _ => exact .of_response rfl hi
  | sample =>
    simp only [acceptOf, acceptSample]
    split
    · exact .of_busy rfl rfl ⟨rfl, rfl, rfl, rfl⟩
    · exact .of_response rfl hi
  | attach =>
    simp only [acceptOf, acceptAttach]
    split
    · exact .of_busy rfl rfl ⟨rfl, rfl, rfl, rfl⟩
    · exact .of_response rfl hi
  | detach =>
    simp only [acceptOf, acceptDetach]
    split
    · exact .of_response rfl hi
    · split
      · exact .of_response rfl rfl
      · exact .of_busy rfl rfl ⟨rfl, rfl, rfl, rfl⟩

/-- Settles O49: the busy edges and the accept edges respond at the command's end, and an idle edge without a command does
not respond. -/
theorem responsesComeExactlyWhenCommandsEnd : Obligations.ResponsesComeExactlyWhenCommandsEnd := by
  intro s t h hst hr
  obtain ⟨-, ⟨hr', -⟩ | ⟨-, hi, rfl⟩ | ⟨-, hi, ho, rfl⟩ | ⟨i, -, hi, ho, rfl⟩⟩ := step_cases hst
  · rw [hr] at hr'; cases hr'
  · exact (busyEdge_respondsAtEnd h hi).advance.iff_ended (.inl hi)
  · exact ⟨by simp [hi, ho], fun _ => ⟨rfl, rfl, rfl, rfl⟩⟩
  · exact (acceptOf_respondsAtEnd i hi).advance.iff_ended (.inr (by simp [ho]))

end Sys2Proof.Machine
end

section
/-! The clocked machine refines the pseudocode (10_state.md R56): the rest of a run from a busy state refines the rest of
its command's pseudocode, one rule per kind of pseudocode line; each command is then read line by line. -/

namespace Sys2Proof.Machine

/-! ### Runs to the next idle state -/

/-- The block in state `u` with the pins `l` to come at edge `j`. -/
abbrev State.facing (u : State) (l : List EdgeIn) (j : Nat) : State := u.withEnv u.sensor l j

theorem finishXact_facing (x : Xact) (r : XResult) (u : State) (l : List EdgeIn) (j : Nat) :
    finishXact x r (u.facing l j) = (finishXact x r u).facing l j := by
  have hu : finishXact x r u = _ := finishXact_withEnv x r u u.sensor u.script u.edge
  rw [finishXact_withEnv, hu]
  rfl

theorem busyEdge_facing {u : State} (hx : xactOf u = none) (l : List EdgeIn) (j : Nat) :
    busyEdge (u.facing l j) = (busyEdge u).facing l j := by
  have hu : busyEdge u = _ := busyEdge_withEnv hx u.sensor u.script u.edge
  rw [busyEdge_withEnv hx, hu]
  rfl

theorem finishXact_env (x : Xact) (r : XResult) (s : State) :
    (finishXact x r s).script = s.script ∧ (finishXact x r s).edge = s.edge :=
  (completeXact_env r _).2

theorem waitEdge_env {expired : State → State} {s : State}
    (h : (expired s).script = s.script ∧ (expired s).edge = s.edge) :
    (waitEdge expired s).script = s.script ∧ (waitEdge expired s).edge = s.edge := by
  unfold waitEdge
  split
  · exact h
  · exact ⟨rfl, rfl⟩

theorem busyEdge_env {s : State} (hi : s.st.isIdle = false) :
    (busyEdge s).script = s.script ∧ (busyEdge s).edge = s.edge := by
  obtain ⟨x, -, -, ⟨-, -, e⟩ | ⟨-, -, e⟩ | ⟨-, -, e⟩ | ⟨-, -, e⟩⟩ | ⟨-, -, ⟨-, e⟩ | ⟨-, e⟩ | ⟨-, e⟩⟩ :=
    busyEdge_cases s hi <;> rw [e]
  · exact ⟨rfl, rfl⟩
  · exact ⟨rfl, rfl⟩
  · exact ⟨rfl, rfl⟩
  · exact finishXact_env x _ (quiet s)
  · exact waitEdge_env (s := quiet s) ⟨rfl, rfl⟩
  · exact waitEdge_env (s := quiet s) ⟨rfl, rfl⟩
  · exact ⟨rfl, rfl⟩

/-- Every edge uses up its own pins and no others. -/
theorem step_env {s t : State} (h : step s = .next t) : t.script = s.script.tail ∧ t.edge = s.edge + 1 := by
  obtain ⟨-, ⟨-, rfl⟩ | ⟨-, hi, rfl⟩ | ⟨-, -, -, rfl⟩ | ⟨i, -, -, -, rfl⟩⟩ := step_cases h
  · exact ⟨rfl, rfl⟩
  · obtain ⟨hs, he⟩ := busyEdge_env hi
    simp [hs, he]
  · exact ⟨rfl, rfl⟩
  · obtain ⟨-, hs, he⟩ := acceptOf_env i s
    simp [hs, he]

theorem inputAt_zero (s : State) : s.inputAt 0 = s.input := by
  unfold State.inputAt State.input
  cases s.script <;> rfl

/-- After an edge, the pins to come are those that were to come after it. -/
theorem inputAt_of_tail {s t : State} (hs : t.script = s.script.tail) (he : t.edge = s.edge + 1) (k : Nat) :
    t.inputAt k = s.inputAt (k + 1) := by
  have hk : t.script[k]? = s.script[k + 1]? := by rw [hs]; simp
  have hn : s.edge + 1 + k = s.edge + (k + 1) := by omega
  simp only [State.inputAt, hk, he, hn]

/-- A run of `n` edges without reset, through busy states, that ends idle. -/
structure Finishes (n : Nat) (s t : State) : Prop where
  noRst : noReset n s
  busy : busyFor n s
  after : stateAfter n s = some t
  idle : t.st.isIdle = true

theorem Finishes.eq_of_idle {n : Nat} {s t : State} (h : Finishes n s t) (hi : s.st.isIdle = true) : n = 0 ∧ t = s := by
  cases n with
  | zero => exact ⟨rfl, (Option.some.inj h.after).symm⟩
  | succ n => exact absurd (h.busy 0 (by omega) s rfl) (by simp [hi])

/-- From a busy state the run has a first edge, without reset. -/
theorem Finishes.succ_of_busy {n : Nat} {s t : State} (h : Finishes n s t) (hi : s.st.isIdle = false) :
    ∃ m, n = m + 1 ∧ s.input.rst = false := by
  cases n with
  | zero =>
    obtain rfl : s = t := Option.some.inj h.after
    rw [h.idle] at hi; cases hi
  | succ n => exact ⟨n, rfl, by rw [← inputAt_zero]; exact h.noRst 0 (by omega)⟩

theorem Finishes.tail {n : Nat} {s u t : State} (h : Finishes (n + 1) s t) (hst : step s = .next u) :
    Finishes n u t := by
  obtain ⟨hs, he⟩ := step_env hst
  refine ⟨fun k hk => ?_, fun k hk v hv => ?_, ?_, h.idle⟩
  · rw [inputAt_of_tail hs he]; exact h.noRst (k + 1) (by omega)
  · exact h.busy (k + 1) (by omega) v (by rw [stateAfter_succ k hst, hv])
  · rw [← stateAfter_succ n hst]; exact h.after

/-! ### Refinement of the rest of a command -/

/-- The run from `s` to its end does what the pseudocode `k` does with the answers consumed. -/
def RunMatches (n : Nat) (s t : State) (k : Answers → Option TxEnd) : Prop :=
  ∃ e, k (consumed n s) = some e ∧ e.issued = issued n s ∧ sameBlock e.state t

/-- From the block state `u`, whatever the pins to come, every run to the next idle state does what `k` does. -/
def Refines (u : State) (k : Answers → Option TxEnd) : Prop :=
  ∀ (n : Nat) (l : List EdgeIn) (j : Nat) (t : State), Finishes n (u.facing l j) t → RunMatches n (u.facing l j) t k

/-- One edge of a command from `s`, against its pseudocode `k`: nothing but the pins moves on, or the block goes on to a
state that refines the rest `k'` of the pseudocode, to which `k` adds the edge's answer and transaction. -/
inductive EdgeRefines (u : State) (k : Answers → Option TxEnd) (l : List EdgeIn) (j : Nat) : Prop
  | stutters (hst : step (u.facing l j) = .next (u.facing l.tail (j + 1)))
      (hc : consumedAnswer (u.facing l j) = none) (ha : acceptedXact (u.facing l j) = none)
  | moves {v : State} {k' : Answers → Option TxEnd} (hst : step (u.facing l j) = .next (v.facing l.tail (j + 1)))
      (hv : Refines v k')
      (hk : ∀ rs e, k' rs = some e → k ((consumedAnswer (u.facing l j)).toList ++ rs) =
        some { e with issued := (acceptedXact (u.facing l j)).toList ++ e.issued })

/-- Edge by edge: the induction over the run. -/
theorem refines_of_edge {u : State} {k : Answers → Option TxEnd} (hi : u.st.isIdle = false)
    (h : ∀ l j, (u.facing l j).input.rst = false → EdgeRefines u k l j) : Refines u k := by
  intro n
  induction n with
  | zero =>
    intro l j t hf
    obtain ⟨m, hm, -⟩ := hf.succ_of_busy hi
    cases hm
  | succ n ih =>
    intro l j t hf
    obtain ⟨-, -, hr⟩ := hf.succ_of_busy hi
    cases h l j hr with
    | stutters hst hc ha =>
      obtain ⟨e, he, hx, hb⟩ := ih _ _ _ (hf.tail hst)
      exact ⟨e, by rw [consumed_succ n hst, hc]; exact he, by rw [issued_succ n hst, ha]; exact hx, hb⟩
    | moves hst hv hk =>
      obtain ⟨e, he, hx, hb⟩ := hv _ _ _ _ (hf.tail hst)
      have hc := hk _ e he
      rw [hx, ← issued_succ n hst, ← consumed_succ n hst] at hc
      exact ⟨_, hc, rfl, hb⟩

/-- The command has responded. -/
theorem refines_ended {u v : State} (hi : u.st.isIdle = true) (hb : sameBlock v u) : Refines u (ended v) := by
  intro n l j t h
  obtain ⟨rfl, rfl⟩ := h.eq_of_idle hi
  exact ⟨⟨v, []⟩, rfl, rfl, hb⟩

/-- A busy edge of a state without a transaction is not seen by the pseudocode. -/
theorem refines_busyEdge {u : State} {k : Answers → Option TxEnd} (hl : legalParams u.cfg = true)
    (hx : xactOf u = none) (hi : u.st.isIdle = false) (h : Refines (busyEdge u) k) : Refines u k := by
  refine refines_of_edge hi fun l j hr => ?_
  have hxf : u.st.isXfer = false := by rw [← xactOf_isSome, hx]; rfl
  have hc : consumedAnswer (u.facing l j) = none := by simp [consumedAnswer, outstanding, State.withEnv, hxf]
  have ha : acceptedXact (u.facing l j) = none := acceptedXact_none hx
  refine .moves (v := busyEdge u) (k' := k) ?_ h fun rs e he => by simpa [hc, ha] using he
  rw [step_busy (s := u.facing l j) hl hr hi, busyEdge_facing hx, advance_withEnv]

/-- The answer awaited by an outstanding transaction goes to the rest of the command. -/
def awaitAnswer (rest : XResult → Answers → Option TxEnd) : Answers → Option TxEnd
  | [] => none
  | r :: rs => rest r rs

theorem quiet_eq_self {u : State} (hv : u.rspValid = false) : quiet u = u := by
  cases u; cases hv; rfl

/-- The edges from an accept edge to the completion edge. -/
theorem refines_await {u : State} {x : Xact} {rest : XResult → Answers → Option TxEnd} (hl : legalParams u.cfg = true)
    (hx : xactOf u = some x) (hq : u.xq = true) (hv : u.rspValid = false)
    (h : ∀ r, Refines (finishXact x r u) (rest r)) : Refines u (awaitAnswer rest) := by
  refine refines_of_edge (isIdle_of_xactOf hx) fun l j hr => ?_
  have hxf : u.st.isXfer = true := by rw [← xactOf_isSome, hx]; rfl
  have hst := step_xfer (s := u.facing l j) hl hr hx
  have hq' : (u.facing l j).xq = true := hq
  have ha : acceptedXact (u.facing l j) = none := by simp [acceptedXact, offeredXact, hq']
  rw [xferEdge, if_pos hq', quiet_withEnv, quiet_eq_self hv] at hst
  cases hxr : (u.facing l j).input.xrValid with
  | false =>
    rw [hxr, if_neg (by simp)] at hst
    exact .stutters hst (by simp [consumedAnswer, hxr]) ha
  | true =>
    rw [hxr, if_pos rfl, finishXact_facing] at hst
    have hc : consumedAnswer (u.facing l j) = some (resultOf (u.facing l j).input) := by
      simp [consumedAnswer, outstanding, hr, hxr, hq', show (u.facing l j).st.isXfer = true from hxf]
    refine .moves hst (h _) fun rs e he => ?_
    rw [hc, ha]
    exact he

/-- The edges from the entry of a transaction state to the accept edge. -/
theorem refines_offer {u : State} {x : Xact} {k : Answers → Option TxEnd} (hl : legalParams u.cfg = true)
    (hx : xactOf u = some x) (hq : u.xq = false) (hv : u.rspValid = false) (h : Refines (startXact x u) k) :
    Refines u (fun rs => (k rs).map fun e => { e with issued := x :: e.issued }) := by
  refine refines_of_edge (isIdle_of_xactOf hx) fun l j hr => ?_
  have hst := step_xfer (s := u.facing l j) hl hr hx
  have hq' : (u.facing l j).xq = false := hq
  have hc : consumedAnswer (u.facing l j) = none := by simp [consumedAnswer, outstanding, hq']
  rw [xferEdge, if_neg (by simp [hq']), quiet_withEnv, quiet_eq_self hv] at hst
  cases hn : (u.facing l j).input.xtReady with
  | false =>
    rw [hn, if_neg (by simp)] at hst
    exact .stutters hst hc (by simp [acceptedXact, hn])
  | true =>
    rw [hn, if_pos rfl] at hst
    have ha : acceptedXact (u.facing l j) = some x := by
      simp only [acceptedXact, hn, offeredXact, hr, hq', if_true]
      exact hx
    refine .moves (v := startXact x u) (k' := k) hst h fun rs e he => ?_
    rw [hc, ha]
    show (k rs).map _ = _
    rw [he]
    rfl

/-! ### The lines of the pseudocode -/

/-- The block in FSM state `st` while the pseudocode is at the registers `v`: its response register is quiet. -/
def running (st : Fsm) (v : State) : State := { v with st := st, rspValid := false }

/-- The registers after a transaction, with what it leaves in the sensor (log entry 6). -/
def State.afterXact (v : State) (x : Xact) (r : XResult) : State :=
  { v with sensor := sensorFinish x r (sensorStart x v.sensor) }

/-- A `MemRead` or `MemWrite` line: the state's transaction, offered, accepted and answered at any time. -/
theorem refines_memOp {st : Fsm} {x : Xact} {v : State} {rest : XResult → State → Answers → Option TxEnd}
    (hl : legalParams v.cfg = true) (hx : xactOf (running st v) = some x) (hq : v.xq = false)
    (h : ∀ r, Refines (completeXact r (running st (v.afterXact x r))) (rest r (v.afterXact x r))) :
    Refines (running st v) (memOp x v rest) := by
  have hk : memOp x v rest = fun rs => (awaitAnswer (fun r => rest r (v.afterXact x r)) rs).map
      fun e => { e with issued := x :: e.issued } := by
    funext rs; cases rs <;> rfl
  rw [hk]
  refine refines_offer hl hx hq rfl (refines_await (x := x) hl hx rfl rfl fun r => ?_)
  have hf : finishXact x r (startXact x (running st v)) = completeXact r (running st (v.afterXact x r)) := by
    cases v; cases hq; rfl
  rw [hf]
  exact h r

/-- A `wait` line: the settling wait runs down from any count (41_lifecycle.md R190). -/
theorem refines_wait {st : Fsm} {expired : State → State} {k : Answers → Option TxEnd} (hi : st.isIdle = false)
    (hx : ∀ v, xactOf (running st v) = none)
    (hw : ∀ v, busyEdge (running st v) = waitEdge expired (running st v)) {v : State}
    (hl : legalParams v.cfg = true) (h : Refines (expired (running st { v with tmr := 0 })) k) :
    Refines (running st v) k := by
  generalize hn : v.tmr.toNat = n
  induction n generalizing v with
  | zero =>
    have ht : v.tmr = 0 := BitVec.eq_of_toNat_eq hn
    refine refines_busyEdge hl (hx v) hi ?_
    rw [hw, waitEdge, if_pos (show (running st v).tmr = 0 from ht)]
    rw [← ht] at h
    exact h
  | succ n ih =>
    have ht : v.tmr ≠ 0 := fun ht => by rw [ht] at hn; cases hn
    refine refines_busyEdge hl (hx v) hi ?_
    rw [hw, waitEdge, if_neg (show ¬(running st v).tmr = 0 from ht)]
    exact ih (v := { v with tmr := v.tmr - 1 }) hl h (by show (v.tmr - 1).toNat = n; bv_omega)

/-- The registers after `WordRead(c)` returned `w` (40_word_reader.md R160). -/
def State.afterWord (v : State) (c : Channel) (low : Byte) (w : Word) : State :=
  { v with ch := c, lo := low, buf := v.buf.set c w }

/-- A `WordRead(c)` line (40_word_reader.md R160 to R162). -/
theorem refines_wordRead {c : Channel} {v : State} {rest : Word → State → Answers → Option TxEnd}
    (hl : legalParams v.cfg = true) (hq : v.xq = false)
    (h : ∀ low w, Refines (continueWord w (running .rdHi (v.afterWord c low w))) (rest w (v.afterWord c low w))) :
    Refines (running .rdLo { v with ch := c }) (wordRead c v rest) := by
  unfold wordRead
  refine refines_memOp hl rfl hq fun r1 => ?_
  cases r1 with
  | err e => exact refines_ended rfl rfl
  | ok low =>
    refine refines_memOp (st := .rdHi) (v := { v with ch := c, lo := low }) hl rfl hq fun r2 => ?_
    cases r2 with
    | err e => exact refines_ended rfl rfl
    | ok high => exact h low (wordOf high low)

/-- An `if` line of the pseudocode. -/
theorem refines_ite {c : Prop} [Decidable c] {u : State} {k k' : Answers → Option TxEnd} (ht : c → Refines u k)
    (he : ¬c → Refines u k') : Refines u (fun rs => if c then k rs else k' rs) := by
  by_cases hc : c
  · simpa only [if_pos hc] using ht hc
  · simpa only [if_neg hc] using he hc

/-- After the first enable write, the first settling wait (41_lifecycle.md R184, R190). -/
theorem ponWr_ok_refines {v : State} {k : Answers → Option TxEnd} (hl : legalParams v.cfg = true) (w : Byte)
    (h : Refines (running .aenWr { v with pwr := .powered, tmr := 0 }) k) :
    Refines (completeXact (.ok w) (running .ponWr v)) k :=
  refines_wait (st := .ponWait) (expired := fun t => { t with st := .aenWr }) rfl (fun _ => rfl) (fun _ => rfl)
    (v := { v with pwr := .powered, tmr := BitVec.ofNat 32 (ponTicks v.cfg) }) hl h

/-- After the second enable write, the second settling wait (41_lifecycle.md R186, R189, R190). -/
theorem aenWr_ok_refines {v : State} {k : Answers → Option TxEnd} (hl : legalParams v.cfg = true) (w : Byte)
    (h : Refines (attachDone (running .aenWait { v with pwr := .active, tmr := 0 })) k) :
    Refines (completeXact (.ok w) (running .aenWr v)) k :=
  refines_wait (st := .aenWait) (expired := attachDone) rfl (fun _ => rfl) (fun _ => rfl)
    (v := { v with pwr := .active, tmr := BitVec.ofNat 32 (aenTicks v.cfg) }) hl h

/-! ### The commands -/

theorem idAccepted_eq_false_iff {b : Byte} : idAccepted b = false ↔ b ≠ 0x44 ∧ b ≠ 0x4D := by simp [idAccepted]

theorem doneIdRd_accepted {b : Byte} {s : State} (h : idAccepted b = true) :
    doneIdRd (.ok b) s = { s with chipId := b, st := .ponWr } := if_pos h

theorem doneIdRd_rejected {b : Byte} {s : State} (h : idAccepted b = false) :
    doneIdRd (.ok b) s = respond .lc .unrecognized 0x00 (zext64 b) (enterFailed .idMismatch { s with chipId := b }) :=
  if_neg (by simp [h])

/-- A DETACH that is neither refused nor a release without a write performs the write (41_lifecycle.md R200). -/
theorem idleA_or_powered {s : State} (hi : s.st.isIdle = true) (hu : s.st ≠ .idleU)
    (hf : ¬(s.st = .idleF ∧ s.pwr = .off)) : s.st = .idleA ∨ s.pwr ≠ .off := by
  cases hs : s.st <;> simp_all [Fsm.isIdle]

section
variable {s : State} (hl : legalParams s.cfg = true) (hq : s.xq = false) (hi : s.st.isIdle = true)
include hl hq hi

theorem acceptRead_refines (c : Channel) (op arg : Byte) :
    Refines (acceptRead c op arg s) (txChannelRead c op arg s) := by
  unfold acceptRead acceptReq txChannelRead
  split
  · next hs =>
    refine refines_wordRead (v := { s with cport := .req, cop := op, carg := arg }) hl hq fun low w => ?_
    exact refines_ended rfl (by cases s; cases hs; rfl)
  · exact refines_ended hi rfl

theorem acceptConfig_refines {a : RegAddr} {op arg : Byte} (ha : cfgAddr s.cfg op = a) :
    Refines (acceptConfig op arg s) (txConfigWrite a op arg s) := by
  unfold acceptConfig acceptReq txConfigWrite
  split
  · next hs =>
    subst ha
    refine refines_memOp (st := .cfgWr) (v := { s with cport := .req, cop := op, carg := arg }) hl rfl hq fun r => ?_
    cases r
    · exact refines_ended rfl (by cases s; cases hs; rfl)
    · exact refines_ended rfl rfl
  · exact refines_ended hi rfl

/-- In a sample every word but the last leads on to the next channel (40_word_reader.md R163). -/
theorem acceptSample_refines : Refines (acceptSample s) (txSample s) := by
  unfold acceptSample txSample
  split
  · next hs =>
    refine refines_wordRead (v := { s with cport := .smp }) hl hq fun low0 w0 => ?_
    refine refines_wordRead hl hq fun low1 w1 => ?_
    refine refines_wordRead hl hq fun low2 w2 => ?_
    refine refines_wordRead hl hq fun low3 w3 => ?_
    exact refines_ended rfl (by cases s; cases hs; rfl)
  · exact refines_ended hi rfl

/-- The identity read, the two enable writes of an ATTACH and the waits after them (41_lifecycle.md R182 to R190). -/
theorem acceptAttach_refines : Refines (acceptAttach s) (txAttach s) := by
  unfold acceptAttach txAttach
  split
  · refine refines_memOp (st := .idRd) (v := { s with cport := .lc }) hl rfl hq fun r => ?_
    cases r with
    | err e => exact refines_ended rfl rfl
    | ok b =>
      change Refines (doneIdRd (.ok b) (running .idRd { s with cport := .lc })) _
      refine refines_ite (c := b ≠ 0x44 ∧ b ≠ 0x4D) (fun hb => ?_) fun hb => ?_
      · rw [doneIdRd_rejected (idAccepted_eq_false_iff.mpr hb)]
        exact refines_ended rfl rfl
      · have hid : idAccepted b = true := (Bool.not_eq_false _).mp fun h => hb (idAccepted_eq_false_iff.mp h)
        rw [doneIdRd_accepted hid]
        refine refines_memOp (st := .ponWr) (v := { s with cport := .lc, chipId := b }) hl rfl hq fun r => ?_
        cases r with
        | err e => exact refines_ended rfl rfl
        | ok w =>
          refine ponWr_ok_refines (by exact hl) w ?_
          refine refines_memOp (st := .aenWr) hl rfl hq fun r => ?_
          cases r with
          | err e => exact refines_ended rfl rfl
          | ok w =>
            refine aenWr_ok_refines (by exact hl) w ?_
            exact refines_ended rfl rfl
  · exact refines_ended hi rfl

/-- A DETACH with its write ends with the release, whatever the write's answer (41_lifecycle.md R203). -/
theorem acceptDetach_refines : Refines (acceptDetach s) (txDetach s) := by
  unfold acceptDetach txDetach
  split
  · exact refines_ended hi rfl
  · next hu =>
    split
    · next hf =>
      obtain ⟨hf, hp⟩ := hf
      rw [if_neg (by simp [hf, hp])]
      exact refines_ended rfl rfl
    · next hf =>
      rw [if_pos (idleA_or_powered hi hu hf)]
      refine refines_memOp (st := .tdWr) (v := { s with cport := .lc }) hl rfl hq fun r => ?_
      cases r <;> exact refines_ended rfl rfl

/-- From the accept edge on, every command refines its pseudocode. -/
theorem acceptOf_refines (i : Instr) : Refines (acceptOf i s) (txRun i s) := by
  cases i with
  | readc arg | readr arg | readg arg | readb arg => exact acceptRead_refines hl hq hi _ _ arg
  | setgain arg | setatime arg => exact acceptConfig_refines hl hq hi rfl
  | invalidOp op arg => exact refines_ended hi rfl
  | sample => exact acceptSample_refines hl hq hi
  | attach => exact acceptAttach_refines hl hq hi
  | detach => exact acceptDetach_refines hl hq hi

end

/-- Settles O53: `exec` in an idle state is the accept rule, and the rest of the run refines the pseudocode. -/
theorem clockedRunRefinesThePseudocode : Obligations.ClockedRunRefinesThePseudocode := by
  intro n i s s1 t h hi hr _ hex hbusy hafter hidle
  rw [exec_idle i s hi] at hex
  obtain rfl : acceptOf i s = s1 := by simpa using hex
  obtain ⟨-, hscript, hedge⟩ := acceptOf_env i s
  have hr' : noReset n (acceptOf i s).advance := fun k hk => by
    rw [inputAt_of_tail (s := s) (by simp [hscript]) (by simp [hedge])]
    exact hr (k + 1) (by omega)
  exact acceptOf_refines h.cfg (h.xq_of_idle hi) hi i n _ _ t ⟨hr', hbusy, hafter, hidle⟩

end Sys2Proof.Machine
end

section
/-! The transport port and the register space behind it (20_memory.md R80 to R97): the command byte, the transaction shown on
the port, what each edge does to the outstanding transaction and to the sensor bytes, and that no edge reads them. -/

namespace Sys2Proof.Machine

/-! ### The command byte -/

/-- Settles O7: the address is zero in the high bit that `0x80` sets, and `0x80` is zero below it. -/
theorem commandByteFramesTheAddress : Obligations.CommandByteFramesTheAddress := fun a =>
  ⟨by simp [frame, BitVec.getMsbD_or], by simp [frame, BitVec.setWidth_or]⟩

/-! ### The transaction shown on the port -/

theorem offeredXact_eq_some_iff {s : State} {x : Xact} :
    offeredXact s = some x ↔ s.input.rst = false ∧ s.xq = false ∧ xactOf s = some x := by
  cases hr : s.input.rst <;> cases hq : s.xq <;> simp [offeredXact, hr, hq]

/-- The four XT outputs of a cycle in which a transaction is offered. -/
theorem outputs_xt_of_offered {s : State} {x : Xact} (h : offeredXact s = some x) :
    (outputs s).xtValid = true ∧ (outputs s).xtWe = x.isWrite ∧ (outputs s).xtAddr = x.addr ∧
    (outputs s).xtWdata = x.data := by
  simp [outputs, h]

/-- The four XT outputs of a cycle in which none is. -/
theorem outputs_xt_of_not_offered {s : State} (h : offeredXact s = none) :
    (outputs s).xtValid = false ∧ (outputs s).xtWe = false ∧ (outputs s).xtAddr = 0 ∧ (outputs s).xtWdata = 0x00 := by
  simp [outputs, h]

theorem offered_of_xtValid {s : State} (h : (outputs s).xtValid = true) : ∃ x, offeredXact s = some x :=
  Option.isSome_iff_exists.mp h

theorem xactOf_none {s : State} (h : s.st.isXfer = false) : xactOf s = none := by
  rw [← Option.isNone_iff_eq_none, ← Option.not_isSome, xactOf_isSome, h]; rfl

/-- The edge at which an offered transaction is not accepted leaves the block in the same transaction state. -/
theorem step_not_accepted {s t : State} {x : Xact} (ho : offeredXact s = some x) (hn : s.input.xtReady = false)
    (hst : step s = .next t) : t = (quiet s).advance := by
  obtain ⟨hr, hq, hx⟩ := offeredXact_eq_some_iff.mp ho
  rw [step_xfer (step_cases hst).1 hr hx] at hst
  simpa [xferEdge, hq, hn] using hst.symm

/-- 20_memory.md R81: the offer stands until it is accepted, but for a reset. -/
theorem offeredXact_held {s t : State} {x : Xact} (ho : offeredXact s = some x) (hn : s.input.xtReady = false)
    (hst : step s = .next t) (ht : t.input.rst = false) : offeredXact t = some x := by
  obtain ⟨-, hq, hx⟩ := offeredXact_eq_some_iff.mp ho
  obtain rfl := step_not_accepted ho hn hst
  exact offeredXact_eq_some_iff.mpr ⟨ht, hq, hx⟩

/-- Settles O21: the outputs follow `offeredXact`, which is `xactOf` of the state and stands until the accept edge. -/
theorem transportPortShowsTheStatesTransaction : Obligations.TransportPortShowsTheStatesTransaction := by
  intro s
  refine ⟨fun hr hq => ?_, fun h => outputs_xt_of_not_offered ?_, fun t hv hn hst ht => ?_⟩
  · have shown {x : Xact} (hx : xactOf s = some x) := outputs_xt_of_offered (offeredXact_eq_some_iff.mpr ⟨hr, hq, hx⟩)
    refine ⟨?_, ?_, ?_, ?_, ?_, ?_, ?_⟩ <;> intro hs <;> exact shown (by rw [xactOf, hs])
  · obtain h | h | h := h
    · simp [offeredXact, h]
    · simp [offeredXact, h]
    · simp [offeredXact, xactOf_none h]
  · obtain ⟨x, ho⟩ := offered_of_xtValid hv
    obtain ⟨-, hwe, haddr, hdata⟩ := outputs_xt_of_offered ho
    rw [hwe, haddr, hdata]
    exact outputs_xt_of_offered (offeredXact_held ho hn hst ht)

/-! ### What an edge does to the transaction and to the sensor bytes -/

/-- What an edge from `s` to `t` does at the transport port (20_memory.md R80). -/
inductive TransportEdge (s t : State) : Prop
  | accepts (x : Xact) (rst : s.input.rst = false) (performed : xactOf s = some x) (accepted : acceptedXact s = some x)
      (unanswered : consumedAnswer s = none) (next : t = (startXact x (quiet s)).advance)
  | completes (x : Xact) (r : XResult) (performed : xactOf s = some x) (unaccepted : acceptedXact s = none)
      (answered : consumedAnswer s = some r) (next : t = (finishXact x r (quiet s)).advance)
  | keeps (unaccepted : acceptedXact s = none) (unanswered : consumedAnswer s = none) (sensor : t.sensor = s.sensor)
      (xq : t.xq = (!s.input.rst && s.xq))

/-- An edge of a state that performs no transaction touches neither the sensor bytes nor the transaction flag. -/
theorem TransportEdge.of_noXact {s t : State} (hr : s.input.rst = false) (hx : s.st.isXfer = false)
    (hm : t.sensor = s.sensor) (hq : t.xq = s.xq) : TransportEdge s t :=
  .keeps (acceptedXact_none (xactOf_none hx)) (by simp [consumedAnswer, outstanding, hx]) hm (by simp [hr, hq])

theorem isXfer_of_isIdle {st : Fsm} (h : st.isIdle = true) : st.isXfer = false := by
  revert h; cases st <;> simp [Fsm.isXfer, Fsm.isIdle]

theorem waitEdge_sensor_xq {expired : State → State} {s : State}
    (h : (expired s).sensor = s.sensor ∧ (expired s).xq = s.xq) :
    (waitEdge expired s).sensor = s.sensor ∧ (waitEdge expired s).xq = s.xq := by
  unfold waitEdge
  split
  · exact h
  · exact ⟨rfl, rfl⟩

theorem busyEdge_transportEdge {s : State} (hr : s.input.rst = false) (hi : s.st.isIdle = false) :
    TransportEdge s (busyEdge s).advance := by
  obtain ⟨x, hx, hxf, ⟨hq, hn, e⟩ | ⟨hq, hn, e⟩ | ⟨hq, hv, e⟩ | ⟨hq, hv, e⟩⟩ | ⟨-, hxf, hw⟩ := busyEdge_cases s hi
  · rw [e]
    exact .keeps (by simp [acceptedXact, hn]) (by simp [consumedAnswer, outstanding, hq]) rfl (by simp [hr])
  · rw [e]
    exact .accepts x hr hx (by simp [acceptedXact, offeredXact, hr, hq, hn, hx])
      (by simp [consumedAnswer, outstanding, hq]) rfl
  · rw [e]
    exact .keeps (by simp [acceptedXact, offeredXact, hq]) (by simp [consumedAnswer, hv]) rfl (by simp [hr])
  · rw [e]
    exact .completes x _ hx (by simp [acceptedXact, offeredXact, hq])
      (by simp [consumedAnswer, outstanding, hr, hxf, hq, hv]) rfl
  · have kept : (busyEdge s).sensor = s.sensor ∧ (busyEdge s).xq = s.xq := by
      obtain ⟨-, e⟩ | ⟨-, e⟩ | ⟨-, e⟩ := hw <;> rw [e]
      · exact waitEdge_sensor_xq (s := quiet s) ⟨rfl, rfl⟩
      · exact waitEdge_sensor_xq (s := quiet s) ⟨rfl, rfl⟩
      · exact ⟨rfl, rfl⟩
    exact .of_noXact hr hxf kept.1 kept.2

/-- Every edge accepts the offered transaction, or completes the outstanding one, or does neither and leaves both the
sensor bytes and, without reset, the transaction flag. -/
theorem step_transportEdge {s t : State} (h : step s = .next t) : TransportEdge s t := by
  obtain ⟨-, ⟨hr, rfl⟩ | ⟨hr, hi, rfl⟩ | ⟨hr, hi, -, rfl⟩ | ⟨i, hr, hi, -, rfl⟩⟩ := step_cases h
  · exact .keeps (by simp [acceptedXact, offeredXact, hr]) (by simp [consumedAnswer, hr]) rfl (by rw [hr]; rfl)
  · exact busyEdge_transportEdge hr hi
  · exact .of_noXact hr (isXfer_of_isIdle hi) rfl rfl
  · obtain ⟨-, hq, -⟩ := acceptOf_frame i s
    obtain ⟨hm, -⟩ := acceptOf_env i s
    exact .of_noXact hr (isXfer_of_isIdle hi) hm hq

/-- In a legal state the transaction flag alone says that a transaction is outstanding (10_state.md R43a). -/
theorem State.Inv.outstanding_eq {s : State} (h : s.Inv) : outstanding s = s.xq := by
  cases hq : s.xq with
  | false => simp [outstanding, hq]
  | true => simp [outstanding, hq, h.xfer hq]

/-- Settles O23: an offer needs `xq = 0`, and `xq` after the edge is read off its transport case. -/
theorem atMostOneTransactionIsOutstanding : Obligations.AtMostOneTransactionIsOutstanding := by
  intro s t h hst
  constructor
  · intro ho
    obtain ⟨x, ho⟩ := Option.ne_none_iff_exists'.mp ho
    obtain ⟨-, hq, hx⟩ := offeredXact_eq_some_iff.mp ho
    exact ⟨by rw [← xactOf_isSome, hx]; rfl, hq, by rw [h.outstanding_eq, hq]⟩
  · rw [(everyStepKeepsTheInvariant s t h hst).outstanding_eq, h.outstanding_eq]
    cases step_transportEdge hst with
    | accepts x hr _ ha _ ht => simp [ht, startXact, hr, ha]
    | completes x r _ ha hc ht => simp [ht, ha, hc]
    | keeps ha hc _ hq => simp [hq, ha, hc]

/-- Settles O41: acceptance and completion keep the canonical form, and no other edge writes a byte. -/
theorem everyStepKeepsTheSensorMemoryCanonical : Obligations.EveryStepKeepsTheSensorMemoryCanonical := by
  intro s t hm hst
  cases step_transportEdge hst with
  | accepts x _ _ _ _ ht => subst ht; exact wf_sensorStart x s.sensor hm
  | completes x r _ _ _ ht => subst ht; simpa using wf_sensorFinish x r s.sensor hm
  | keeps _ _ hs _ => rw [hs]; exact hm

/-- Settles O42: only the state's own transaction touches a byte, its own; success writes it. -/
theorem onlyTheAddressedSensorByteChanges : Obligations.OnlyTheAddressedSensorByteChanges := by
  intro s t hst
  cases step_transportEdge hst with
  | accepts x _ hx _ hc ht =>
    subst ht
    exact ⟨fun k hk => read_sensorStart_other x s.sensor k fun a v e => hk a v (e ▸ hx),
      fun a v b _ hb => by simp [hc] at hb⟩
  | completes x r hx _ hc ht =>
    subst ht
    simp only [advance_sensor, finishXact_sensor, quiet_sensor]
    refine ⟨fun k hk => read_sensorFinish_other x r s.sensor k fun a v e => hk a v (e ▸ hx), fun a v b hw hb => ?_⟩
    obtain rfl : x = .write a v := Option.some.inj (hx.symm.trans hw)
    obtain rfl : r = .ok b := Option.some.inj (hc.symm.trans hb)
    exact read_write_same s.sensor a.toNat v
  | keeps _ hc hs _ => exact ⟨fun k _ => by rw [hs], fun a v b _ hb => by simp [hc] at hb⟩

/-! ### No edge reads the sensor bytes -/

/-- The same block, at the same pins, before a sensor that holds other bytes. -/
abbrev State.withSensor (s : State) (m : Memory) : State := s.withEnv m s.script s.edge

/-- What commutes with replacing the environment commutes with replacing the sensor bytes alone. -/
theorem withSensor_of_withEnv {f : State → State} {s : State}
    (h : ∀ m l n, f (s.withEnv m l n) = (f s).withEnv m l n) (m : Memory) :
    f (s.withSensor m) = (f s).withSensor m := by
  have hself : f s = (f s).withEnv s.sensor s.script s.edge := h s.sensor s.script s.edge
  have hscript : (f s).script = s.script := (congrArg State.script hself).trans rfl
  have hedge : (f s).edge = s.edge := (congrArg State.edge hself).trans rfl
  rw [State.withSensor, h, State.withSensor, hscript, hedge]

theorem finishXact_withSensor (x : Xact) (r : XResult) (s : State) (m : Memory) :
    finishXact x r (s.withSensor m) = (finishXact x r s).withSensor (sensorFinish x r m) :=
  withSensor_of_withEnv (completeXact_withEnv r { s with xq := false, sensor := sensorFinish x r s.sensor }) _

theorem xferEdge_withSensor (x : Xact) (s : State) (m : Memory) :
    ∃ m', xferEdge x (s.withSensor m) = (xferEdge x s).withSensor m' := by
  have hq : (s.withSensor m).xq = s.xq := rfl
  have hin : (s.withSensor m).input = s.input := rfl
  unfold xferEdge
  rw [hq, hin]
  cases s.xq with
  | true =>
    cases s.input.xrValid with
    | true => exact ⟨_, finishXact_withSensor x (resultOf s.input) (quiet s) m⟩
    | false => exact ⟨m, rfl⟩
  | false =>
    cases s.input.xtReady with
    | true => exact ⟨sensorStart x m, rfl⟩
    | false => exact ⟨m, rfl⟩

theorem busyEdge_withSensor (s : State) (m : Memory) : ∃ m', busyEdge (s.withSensor m) = (busyEdge s).withSensor m' := by
  cases hx : xactOf s with
  | some x =>
    rw [busyEdge_xfer hx, busyEdge_xfer (s := s.withSensor m) hx]
    exact xferEdge_withSensor x s m
  | none => exact ⟨m, withSensor_of_withEnv (busyEdge_withEnv hx) m⟩

/-- Settles O43, by the kinds of edge: each is chosen by the registers and the pins, and commutes with other bytes. -/
theorem theBlockIgnoresTheSensorBytes : Obligations.TheBlockIgnoresTheSensorBytes := by
  intro s m
  change ∃ m', step (s.withSensor m) = mapNext (fun t => t.withSensor m') (step s)
  cases hl : legalParams s.cfg with
  | false => exact ⟨m, by rw [step_illegal hl, step_illegal (s := s.withSensor m) hl]; rfl⟩
  | true =>
  cases hr : s.input.rst with
  | true => exact ⟨m, by rw [step_reset hl hr, step_reset (s := s.withSensor m) hl hr]; rfl⟩
  | false =>
  cases hi : s.st.isIdle with
  | false =>
    obtain ⟨m', e⟩ := busyEdge_withSensor s m
    exact ⟨m', by rw [step_busy hl hr hi, step_busy (s := s.withSensor m) hl hr hi, e]; rfl⟩
  | true =>
  cases ho : offeredCommand s.input with
  | none => exact ⟨m, by rw [step_quiet hl hr hi ho, step_quiet (s := s.withSensor m) hl hr hi ho]; rfl⟩
  | some i =>
    refine ⟨m, ?_⟩
    rw [step_taken hl hr hi ho, step_taken (s := s.withSensor m) hl hr hi ho,
      withSensor_of_withEnv (acceptOf_withEnv i s)]
    rfl

end Sys2Proof.Machine
end

section
/-! The encoding (30_encoding.md R120 to R134): decoding and encoding are inverse to each other on the well-formed
commands, which op codes are invalid, the assembler's lines, and the codes on the output pins. -/

namespace Sys2Proof

/-! ### The REQ formats -/

/-- The valid op codes are 1 to 6, as numbers (30_encoding.md R122). -/
theorem validOp_eq_false_iff (op : Byte) : validOp op = false ↔ op.toNat = 0 ∨ 7 ≤ op.toNat := by
  simp only [validOp, Bool.or_eq_false_iff, beq_eq_false_iff_ne]
  bv_omega

theorem decodeReq_of_not_validOp {w : Word} (h : validOp (reqOp w) = false) :
    decodeReq w = .invalidOp (reqOp w) (reqArg w) := by
  simp only [validOp, Bool.or_eq_false_iff, beq_eq_false_iff_ne] at h
  simp only [decodeReq, h, if_false]

theorem wellFormed_decodeReq (w : Word) : (decodeReq w).wellFormed = true := by
  cases h : validOp (reqOp w) with
  | false => simp [decodeReq_of_not_validOp h, Instr.wellFormed, h]
  | true =>
    simp only [validOp, Bool.or_eq_true, beq_iff_eq, or_assoc] at h
    obtain h | h | h | h | h | h := h <;> simp [decodeReq, h, Instr.wellFormed]

/-- Each branch of `decodeReq` fixes the op code that `encode` puts back before the argument. -/
theorem encode_decodeReq (w : Word) : encode (decodeReq w) = .req w := by
  have key : encode (decodeReq w) = .req (reqWordOf (reqOp w) (reqArg w)) := by
    fun_cases decodeReq w <;> simp only [encode, *]
  rw [key, reqWordOf_reqOp_reqArg]

/-- A REQ word decodes to INVALID_OP with its own fields, and only on an op code that names no command. -/
theorem decodeReq_eq_invalidOp_iff (w : Word) :
    (∃ op arg, decodeReq w = .invalidOp op arg) ↔ validOp (reqOp w) = false := by
  constructor
  · rintro ⟨op, arg, h⟩
    have hwf : validOp op = false := by simpa [h, Instr.wellFormed] using wellFormed_decodeReq w
    have hw : reqWordOf op arg = w := by simpa [h, encode] using encode_decodeReq w
    rwa [← hw, reqOp_reqWordOf]
  · exact fun h => ⟨_, _, decodeReq_of_not_validOp h⟩

/-! ### Decoding and encoding -/

theorem decode_encode (i : Instr) (h : i.wellFormed = true) : decode (encode i) = i := by
  cases i with
  | readc arg | readr arg | readg arg | readb arg | setgain arg | setatime arg =>
    simp [encode, decode, decodeReq, reqOp_reqWordOf, reqArg_reqWordOf]
  | invalidOp op arg =>
    have hop : validOp (reqOp (reqWordOf op arg)) = false := by
      simpa [reqOp_reqWordOf, Instr.wellFormed] using h
    exact (decodeReq_of_not_validOp hop).trans (by rw [reqOp_reqWordOf, reqArg_reqWordOf])
  | sample | attach | detach => rfl

theorem port_encode (i : Instr) : (encode i).port = i.port := by
  cases i <;> rfl

/-- Settles O2: `decode_encode`, by the constructors of the command, on the port of its payload. -/
theorem decodeOfEncodeIsTheCommand : Obligations.DecodeOfEncodeIsTheCommand :=
  fun i h => ⟨decode_encode i h, port_encode i⟩

/-- Settles O3, port by port. -/
theorem encodeOfDecodeIsTheTransfer : Obligations.EncodeOfDecodeIsTheTransfer := by
  intro p
  cases p with
  | req w => exact ⟨wellFormed_decodeReq w, encode_decodeReq w⟩
  | smp => exact ⟨rfl, rfl⟩
  | lc b => obtain rfl | rfl := BitVec.eq_zero_or_eq_one b <;> exact ⟨rfl, rfl⟩

/-- Settles O4: the upper byte is the op code, and INVALID_OP is the decoding of every op code but 1 to 6. -/
theorem invalidOpIsExactlyTheUnnamedOpCodes : Obligations.InvalidOpIsExactlyTheUnnamedOpCodes := by
  intro w
  rw [← toNat_reqOp, ← validOp_eq_false_iff]
  exact decodeReq_eq_invalidOp_iff w

/-- Settles O1: each payload is the encoding of its command, computed, and the command is well formed. -/
theorem writtenTransfersDecodeToTheirCommands : Obligations.WrittenTransfersDecodeToTheirCommands :=
  ⟨decode_encode (.readc 0x00) rfl, decode_encode (.readc 0xAB) rfl, decode_encode (.readr 0x00) rfl,
    decode_encode (.readg 0xFF) rfl, decode_encode (.readb 0x00) rfl, decode_encode (.setgain 0x03) rfl,
    decode_encode (.setatime 0xC0) rfl, decode_encode (.invalidOp 0x00 0x00) rfl,
    decode_encode (.invalidOp 0x07 0x00) rfl, decode_encode (.invalidOp 0xFF 0x05) rfl,
    decode_encode .sample rfl, decode_encode .attach rfl, decode_encode .detach rfl⟩

/-! ### Assembler lines -/

/-- A line that assembles to the transfer of a well-formed command decodes to that command. -/
theorem map_decode_of_assemble {l : AsmLine} {i : Instr} (ha : assemble l = some (encode i))
    (hi : i.wellFormed = true) : (assemble l).map decode = some i := by
  rw [ha, Option.map_some, decode_encode i hi]

/-- Settles O5: an operand in range gives the encoding of the line's command, one out of range gives nothing. -/
theorem assemblerLinesAreTheirCommands : Obligations.AssemblerLinesAreTheirCommands := by
  refine ⟨fun n => ⟨fun h => ⟨?_, ?_⟩, fun h => ⟨?_, ?_⟩⟩, fun n => ⟨fun h => ?_, fun h => ?_⟩,
    ?_, ?_, ?_, ?_, ?_, ?_, ?_⟩
  · exact map_decode_of_assemble (if_pos h) rfl
  · exact map_decode_of_assemble (if_pos h) rfl
  · exact if_neg (Nat.not_lt.mpr h)
  · exact if_neg (Nat.not_lt.mpr h)
  · exact if_pos h
  · exact if_neg (Nat.not_lt.mpr h)
  all_goals exact map_decode_of_assemble rfl rfl

end Sys2Proof

namespace Sys2Proof.Machine

/-! ### Codes on the output pins -/

theorem portCode_ne_three (p : Port) : portCode p ≠ 3 := by
  cases p <;> decide

theorem Status.code_le_four (c : Status) : c.code.toNat ≤ 4 := by
  cases c <;> decide

theorem FailReason.code_le_four (f : FailReason) : f.code.toNat ≤ 4 := by
  cases f <;> decide

/-- `AEN` is never written before `PON` (10_state.md R38). -/
theorem Power.code_ne_aen_only (p : Power) : p.code ≠ 0b10 := by
  cases p <;> decide

theorem Fsm.isIdle_eq_true_iff (st : Fsm) : st.isIdle = true ↔ st = .idleU ∨ st = .idleA ∨ st = .idleF := by
  cases st <;> decide

/-- Settles O54: each pin is its register's code, and no code function takes an unused value. -/
theorem outputPinsShowTheRegistersCodes : Obligations.OutputPinsShowTheRegistersCodes := by
  intro s
  refine ⟨⟨rfl, rfl, rfl⟩,
    ⟨congrArg portCode, congrArg portCode, congrArg portCode, portCode_ne_three _⟩,
    ⟨congrArg Status.code, congrArg Status.code, congrArg Status.code, congrArg Status.code, congrArg Status.code,
      Status.code_le_four _⟩,
    ⟨congrArg FailReason.code, congrArg FailReason.code, congrArg FailReason.code, congrArg FailReason.code,
      congrArg FailReason.code, FailReason.code_le_four _⟩,
    ⟨congrArg Power.code, congrArg Power.code, congrArg Power.code, Power.code_ne_aen_only _⟩, rfl, ?_⟩
  rw [← Fsm.isIdle_eq_true_iff]
  exact iff_of_eq (Bool.not_eq_false' s.st.isIdle)

end Sys2Proof.Machine
end

section
/-! The Word Reader (40_word_reader.md R160 to R163): words and results byte by byte, and the completion edges of the two
reads of a word, with the continuation after the word. -/

namespace Sys2Proof.Machine

/-! ### Words and results as bytes -/

theorem resultByte_eq_extractLsb' (d : Wide) (k : Nat) : resultByte d k = d.extractLsb' (8 * k) 8 := by
  apply BitVec.eq_of_toNat_eq
  simp [resultByte, BitVec.extractLsb'_toNat]

theorem wordOf_eq_shiftLeft_or (high low : Byte) :
    wordOf high low = (high.setWidth 16 <<< 8) ||| low.setWidth 16 := by
  rw [← BitVec.setWidth_append_eq_shiftLeft_setWidth_or, BitVec.setWidth_eq]
  rfl

theorem extractLsb'_wordOf_low (high low : Byte) : (wordOf high low).extractLsb' 0 8 = low :=
  BitVec.extractLsb'_append_eq_right

theorem extractLsb'_wordOf_high (high low : Byte) : (wordOf high low).extractLsb' 8 8 = high :=
  BitVec.extractLsb'_append_eq_left

theorem resultBytes_zext64_wordOf (high low : Byte) : resultBytes (zext64 (wordOf high low)) 2 = [low, high] := by
  have byte (k : Nat) (hk : k < 8) :
      resultByte (zext64 (wordOf high low)) k = (wordOf high low).extractLsb' (8 * k) 8 := by
    rw [resultByte_eq_extractLsb', BitVec.extractLsb'_setWidth_of_le (by omega)]
  calc resultBytes (zext64 (wordOf high low)) 2
      = [resultByte (zext64 (wordOf high low)) 0, resultByte (zext64 (wordOf high low)) 1] := rfl
    _ = [low, high] := by
      rw [byte 0 (by decide), byte 1 (by decide), extractLsb'_wordOf_low, extractLsb'_wordOf_high]

/-- The two bytes of each word of a sample's result, the words in the order clear, red, green, blue
(30_encoding.md R130). -/
theorem resultByte_sampleData (c r g b : Word) (i : Nat) (hi : i < 2) :
    resultByte (sampleData c r g b) i = c.extractLsb' (8 * i) 8 ∧
    resultByte (sampleData c r g b) (2 + i) = r.extractLsb' (8 * i) 8 ∧
    resultByte (sampleData c r g b) (4 + i) = g.extractLsb' (8 * i) 8 ∧
    resultByte (sampleData c r g b) (6 + i) = b.extractLsb' (8 * i) 8 := by
  simp only [resultByte_eq_extractLsb', sampleData]
  refine ⟨?_, ?_, ?_, ?_⟩
  · rw [BitVec.extractLsb'_append_eq_of_add_le (by omega)]
  · rw [BitVec.extractLsb'_append_eq_of_le (by omega), BitVec.extractLsb'_append_eq_of_add_le (by omega)]
    congr 1; omega
  · rw [BitVec.extractLsb'_append_eq_of_le (by omega), BitVec.extractLsb'_append_eq_of_le (by omega),
      BitVec.extractLsb'_append_eq_of_add_le (by omega)]
    congr 1; omega
  · rw [BitVec.extractLsb'_append_eq_of_le (by omega), BitVec.extractLsb'_append_eq_of_le (by omega),
      BitVec.extractLsb'_append_eq_of_le (by omega)]
    congr 1; omega

/-- Settles O6: the bytes of a result are the 8-bit fields of its words, and a word's two fields are its bytes. -/
theorem resultsAreLittleEndian : Obligations.ResultsAreLittleEndian := by
  refine ⟨fun low high => ⟨wordOf_eq_shiftLeft_or high low, resultBytes_zext64_wordOf high low⟩, ?_⟩
  intro l0 h0 l1 h1 l2 h2 l3 h3
  obtain ⟨c0, r0, g0, b0⟩ :=
    resultByte_sampleData (wordOf h0 l0) (wordOf h1 l1) (wordOf h2 l2) (wordOf h3 l3) 0 (by decide)
  obtain ⟨c1, r1, g1, b1⟩ :=
    resultByte_sampleData (wordOf h0 l0) (wordOf h1 l1) (wordOf h2 l2) (wordOf h3 l3) 1 (by decide)
  simp [resultBytes, List.range_succ, c0, c1, r0, r1, g0, g1, b0, b1, extractLsb'_wordOf_low, extractLsb'_wordOf_high]

/-! ### Completion edges -/

/-- At a completion edge the step is the state's completion rule, on a quiet response register (10_state.md R53). -/
theorem CompletionEdge.step_eq {st : Fsm} {s : State} {x : Xact} (h : CompletionEdge st s) (hx : xactOf s = some x) :
    step s = .next (finishXact x (resultOf s.input) (quiet s)).advance := by
  rw [step_xfer h.legal h.noRst hx, xferEdge, if_pos h.awaiting, if_pos h.answered]

theorem resultOf_ok {e : EdgeIn} (h : e.xrOk = true) : resultOf e = .ok e.xrRdata := if_pos h

theorem resultOf_err {e : EdgeIn} (h : e.xrOk = false) : resultOf e = .err e.xrErr := by simp [resultOf, h]

theorem xactOf_rdLo {s : State} (h : s.st = .rdLo) : xactOf s = some (.read (chanAddr s.cfg s.ch)) := by
  simp [xactOf, h]

theorem xactOf_rdHi {s : State} (h : s.st = .rdHi) : xactOf s = some (.read (highAddr (chanAddr s.cfg s.ch))) := by
  simp [xactOf, h]

/-- A read that completes leaves the sensor bytes alone; the rest is RD_LO's rule. -/
theorem step_rdLo {s : State} (h : CompletionEdge .rdLo s) :
    step s = .next (doneRdLo (resultOf s.input) { quiet s with xq := false }).advance := by
  rw [h.step_eq (xactOf_rdLo h.inState)]
  simp [finishXact, completeXact, sensorFinish, h.inState]

theorem step_rdHi {s : State} (h : CompletionEdge .rdHi s) :
    step s = .next (doneRdHi (resultOf s.input) { quiet s with xq := false }).advance := by
  rw [h.step_eq (xactOf_rdHi h.inState)]
  simp [finishXact, completeXact, sensorFinish, h.inState]

/-- Settles O30: at the edge `doneRdLo` gets the answer, a byte or an error. -/
theorem lowByteCompletion : Obligations.LowByteCompletion := by
  intro s h
  refine ⟨xactOf_rdLo h.inState, fun hok => ?_, fun herr => ?_⟩
  · rw [step_rdLo h, resultOf_ok hok]; rfl
  · rw [step_rdLo h, resultOf_err herr]; rfl

/-! ### The continuation after a word -/

theorem continueWord_req (w : Word) {s : State} (h : s.cport = .req) : continueWord w s = channelDone w s := by
  simp [continueWord, h]

/-- The blue word is answered with the three words before it, which its own write to `buf` leaves (42_sample.md R232). -/
theorem continueWord_smp_blue (w : Word) {s : State} (h : s.cport = .smp) (hc : s.ch = .blue) :
    continueWord w { s with buf := s.buf.set s.ch w } =
      respond .smp .ok 0x00 (sampleData s.buf.clear s.buf.red s.buf.green w)
        { s with st := .idleA, buf := s.buf.set .blue w } := by
  simp [continueWord, h, hc, sampleDone, WordBuf.set]

theorem continueWord_smp_next (w : Word) {s : State} (h : s.cport = .smp) (hc : s.ch ≠ .blue) :
    continueWord w s = { s with ch := s.ch.next, st := .rdLo } := by
  simp [continueWord, h, hc]

/-- The channel after `d` in the order of the codes: there is none after blue (40_word_reader.md R163). -/
theorem Channel.ne_blue_and_eq_next {c d : Channel} (h : c.code.toNat = d.code.toNat + 1) : d ≠ .blue ∧ c = d.next := by
  revert h
  cases d <;> cases c <;> decide

/-- Success in RD_HI: the word goes to `buf[ch]` and on to its command (40_word_reader.md R162). -/
theorem step_rdHi_ok {s t : State} (h : CompletionEdge .rdHi s) (hok : s.input.xrOk = true)
    (ht : continueWord (wordOf s.input.xrRdata s.lo)
      { quiet s with xq := false, buf := s.buf.set s.ch (wordOf s.input.xrRdata s.lo) } = t) :
    step s = .next t.advance := by
  rw [step_rdHi h, resultOf_ok hok, ← ht]; rfl

/-- Settles O31, by the answer, the command's port and the channel. -/
theorem highByteCompletion : Obligations.HighByteCompletion := by
  rintro s _ h rfl
  refine ⟨xactOf_rdHi h.inState, fun herr => ?_, fun hok hp => ?_, fun hok hp hc => ?_, fun hok hp c hcode => ?_⟩
  · rw [step_rdHi h, resultOf_err herr]; rfl
  · exact step_rdHi_ok h hok (continueWord_req _ hp)
  · exact step_rdHi_ok h hok (continueWord_smp_blue (s := { quiet s with xq := false }) _ hp hc)
  · obtain ⟨hb, rfl⟩ := Channel.ne_blue_and_eq_next hcode
    exact step_rdHi_ok h hok (continueWord_smp_next _ hp hb)

end Sys2Proof.Machine
end

section
/-! The lifecycle controller edge by edge (41_lifecycle.md R180 to R204): the accept rules of ATTACH and DETACH, FAILED,
the answers to its transactions, and the settling waits. -/

namespace Sys2Proof.Machine

/-! ### Accept edges -/

theorem acceptAttach_idleU {s : State} (h : s.st = .idleU) :
    acceptAttach s = { quiet s with cport := .lc, st := .idRd } := if_pos h

/-- With a live handle ATTACH is refused (41_lifecycle.md R180). -/
theorem acceptAttach_refused {s : State} (h : s.st ≠ .idleU) :
    acceptAttach s = respond .lc .invalid 0x00 (zext64 s.chipId) s := if_neg h

theorem acceptDetach_refused {s : State} (h : s.st = .idleU) :
    acceptDetach s = respond .lc .invalid 0x00 0 s := if_pos h

/-- After a failure before the first enable write took effect, DETACH releases at once (41_lifecycle.md R204). -/
theorem acceptDetach_releases {s : State} (h : s.st = .idleF) (hp : s.pwr = .off) :
    acceptDetach s = respond .lc .ok 0x00 0 (release s) := by
  simp [acceptDetach, h, hp]

/-- DETACH with its write begins (41_lifecycle.md R200). -/
theorem acceptDetach_writes {s : State} (h : s.st = .idleA ∨ (s.st = .idleF ∧ s.pwr ≠ .off)) :
    acceptDetach s = { quiet s with cport := .lc, st := .tdWr } := by
  obtain h | ⟨h, hp⟩ := h
  · simp [acceptDetach, h]
  · simp [acceptDetach, h, hp]

/-- An idle state issues no transaction. -/
theorem acceptedXact_idle {s : State} (hi : s.st.isIdle = true) : acceptedXact s = none :=
  acceptedXact_none (xactOf_none (isXfer_of_isIdle hi))

/-- Settles O19: the two cases of the accept rule, whether a handle is live. -/
theorem attachTransferFollowsTheAcceptRule : Obligations.AttachTransferFollowsTheAcceptRule := by
  refine fun s => ⟨fun h => ?_, fun h => ?_⟩
  · rw [exec_idle .attach s (by rw [h]; rfl), acceptOf, acceptAttach_idleU h]
    rfl
  · have hi : s.st.isIdle = true := by obtain h | h := h <;> rw [h] <;> rfl
    have hu : s.st ≠ .idleU := by obtain h | h := h <;> simp [h]
    refine ⟨?_, acceptedXact_idle hi⟩
    rw [exec_idle .attach s hi, acceptOf, acceptAttach_refused hu]
    rfl

/-- Settles O20: the three cases of the accept rule, with the write, the release without one, and the refusal. -/
theorem detachTransferFollowsTheAcceptRule : Obligations.DetachTransferFollowsTheAcceptRule := by
  have writes {s : State} (h : s.st = .idleA ∨ (s.st = .idleF ∧ s.pwr ≠ .off)) :
      exec .detach s = .next { s with cport := .lc, st := .tdWr, rspValid := false } := by
    rw [exec_idle .detach s (by obtain h | ⟨h, -⟩ := h <;> rw [h] <;> rfl), acceptOf, acceptDetach_writes h]
    rfl
  refine fun s => ⟨fun h => writes (.inl h), fun h hp => writes (.inr ⟨h, hp⟩), fun h hp => ?_, fun h => ?_⟩
  · have hi : s.st.isIdle = true := by rw [h]; rfl
    refine ⟨?_, acceptedXact_idle hi⟩
    rw [exec_idle .detach s hi, acceptOf, acceptDetach_releases h hp]
    rfl
  · have hi : s.st.isIdle = true := by rw [h]; rfl
    refine ⟨?_, acceptedXact_idle hi⟩
    rw [exec_idle .detach s hi, acceptOf, acceptDetach_refused h]
    rfl

/-! ### FAILED -/

/-- In FAILED every command but DETACH is answered at once and leaves the block there (41_lifecycle.md R194). -/
theorem acceptOf_st_of_failed {i : Instr} {s : State} (hs : s.st = .idleF) (hi : i ≠ .detach) :
    (acceptOf i s).st = .idleF := by
  have hu : s.st ≠ .idleU := by simp [hs]
  have ha : s.st ≠ .idleA := by simp [hs]
  cases i with
  | readc _ | readr _ | readg _ | readb _ => rw [acceptOf, acceptRead, acceptReq, if_neg ha]; exact hs
  | setgain _ | setatime _ => rw [acceptOf, acceptConfig, acceptReq, if_neg ha]; exact hs
  | invalidOp _ _ => exact hs
  | sample => rw [acceptOf, acceptSample, if_neg ha]; exact hs
  | attach => rw [acceptOf, acceptAttach_refused hu]; exact hs
  | detach => exact absurd rfl hi

/-- Settles O47: from IDLE_F a step without reset is a quiet edge or the accept edge of another command. -/
theorem failedIsLeftOnlyByDetachOrReset : Obligations.FailedIsLeftOnlyByDetachOrReset := by
  intro s t hs h hr hd
  obtain ⟨-, ⟨hr', -⟩ | ⟨-, hi, -⟩ | ⟨-, -, -, rfl⟩ | ⟨i, -, -, ho, rfl⟩⟩ := step_cases h
  · rw [hr] at hr'; cases hr'
  · rw [hs] at hi; cases hi
  · exact ⟨hs, rfl, rfl, rfl, rfl⟩
  · have hi : i ≠ .detach := fun e => hd (e ▸ ho)
    obtain ⟨hf, hx, hc, -⟩ := acceptOf_handle i s hi
    obtain ⟨-, -, hp, -⟩ := acceptOf_frame i s
    exact ⟨acceptOf_st_of_failed hs hi, hf, hx, hc, hp⟩

/-! ### Answers to the lifecycle transactions -/

theorem xactOf_idRd {s : State} (h : s.st = .idRd) : xactOf s = some (.read s.cfg.aId) := by simp [xactOf, h]

theorem xactOf_ponWr {s : State} (h : s.st = .ponWr) : xactOf s = some (.write s.cfg.aEnable s.cfg.vPon) := by
  simp [xactOf, h]

theorem xactOf_aenWr {s : State} (h : s.st = .aenWr) :
    xactOf s = some (.write s.cfg.aEnable (s.cfg.vPon ||| s.cfg.vAen)) := by simp [xactOf, h]

theorem xactOf_tdWr {s : State} (h : s.st = .tdWr) : xactOf s = some (.write s.cfg.aEnable vOff) := by simp [xactOf, h]

theorem completeXact_idRd {r : XResult} {s : State} (h : s.st = .idRd) : completeXact r s = doneIdRd r s := by
  rw [completeXact, h]

theorem completeXact_ponWr {r : XResult} {s : State} (h : s.st = .ponWr) : completeXact r s = donePonWr r s := by
  rw [completeXact, h]

theorem completeXact_aenWr {r : XResult} {s : State} (h : s.st = .aenWr) : completeXact r s = doneAenWr r s := by
  rw [completeXact, h]

theorem completeXact_tdWr {r : XResult} {s : State} (h : s.st = .tdWr) : completeXact r s = doneTdWr r s := by
  rw [completeXact, h]

/-- The completion of a transaction, by the completion rule of its state (10_state.md R53). -/
theorem finishXact_done {st : Fsm} {s : State} {done : XResult → State → State} (x : Xact) (r : XResult)
    (hs : s.st = st) (hd : ∀ {r : XResult} {u : State}, u.st = st → completeXact r u = done r u) :
    finishXact x r (quiet s) = done r { quiet s with xq := false, sensor := sensorFinish x r s.sensor } := hd hs

/-- A completion edge of a state, by its completion rule. -/
theorem CompletionEdge.step_done {st : Fsm} {s : State} {x : Xact} {done : XResult → State → State}
    (h : CompletionEdge st s) (hx : xactOf s = some x)
    (hd : ∀ {r : XResult} {u : State}, u.st = st → completeXact r u = done r u) :
    step s = .next (done (resultOf s.input)
      { quiet s with xq := false, sensor := sensorFinish x (resultOf s.input) s.sensor }).advance := by
  rw [h.step_eq hx, finishXact_done x _ h.inState hd]

theorem idAccepted_iff {b : Byte} : idAccepted b = true ↔ b = 0x44 ∨ b = 0x4D := by simp [idAccepted]

/-- Settles O25, by the answer to the identity read: an accepted byte, another byte, or an error. -/
theorem identityReadCompletion : Obligations.IdentityReadCompletion := by
  intro s h
  have hx := xactOf_idRd h.inState
  refine ⟨hx, fun hok hb => ?_, fun hok h44 h4D => ?_, fun herr => ?_⟩ <;> rw [h.step_done hx completeXact_idRd]
  · rw [resultOf_ok hok, doneIdRd_accepted (idAccepted_iff.mpr hb)]; rfl
  · rw [resultOf_ok hok, doneIdRd_rejected (idAccepted_eq_false_iff.mpr ⟨h44, h4D⟩)]; rfl
  · rw [resultOf_err herr]; rfl

/-- Settles O26, by the answer to the first enable write. -/
theorem powerOnWriteCompletion : Obligations.PowerOnWriteCompletion := by
  intro s h
  have hx := xactOf_ponWr h.inState
  have hstep := h.step_done hx completeXact_ponWr
  exact ⟨hx, fun hok => ⟨_, by rw [hstep, resultOf_ok hok]; rfl⟩,
    fun herr => ⟨_, by rw [hstep, resultOf_err herr]; rfl⟩⟩

/-- Settles O27, by the answer to the second enable write. -/
theorem adcEnableWriteCompletion : Obligations.AdcEnableWriteCompletion := by
  intro s h
  have hx := xactOf_aenWr h.inState
  have hstep := h.step_done hx completeXact_aenWr
  exact ⟨hx, fun hok => ⟨_, by rw [hstep, resultOf_ok hok]; rfl⟩,
    fun herr => ⟨_, by rw [hstep, resultOf_err herr]; rfl⟩⟩

/-- Settles O29: the release comes with either answer to the teardown write. -/
theorem teardownWriteCompletion : Obligations.TeardownWriteCompletion := by
  intro s h
  have hx := xactOf_tdWr h.inState
  have hstep := h.step_done hx completeXact_tdWr
  exact ⟨hx, fun hok => ⟨_, by rw [hstep, resultOf_ok hok]; rfl⟩,
    fun herr => ⟨_, by rw [hstep, resultOf_err herr]; rfl⟩⟩

/-! ### The settling waits -/

theorem isWait_iff {st : Fsm} : st.isWait = true ↔ st = .ponWait ∨ st = .aenWait := by cases st <;> simp [Fsm.isWait]

theorem isIdle_of_isWait {st : Fsm} (h : st.isWait = true) : st.isIdle = false := by
  obtain rfl | rfl := isWait_iff.mp h <;> rfl

theorem isXfer_of_isWait {st : Fsm} (h : st.isWait = true) : st.isXfer = false := by
  obtain rfl | rfl := isWait_iff.mp h <;> rfl

theorem busyEdge_ponWait {s : State} (h : s.st = .ponWait) :
    busyEdge s = waitEdge (fun t => { t with st := .aenWr }) (quiet s) := by simp [busyEdge, xactOf, h]

theorem busyEdge_aenWait {s : State} (h : s.st = .aenWait) : busyEdge s = waitEdge attachDone (quiet s) := by
  simp [busyEdge, xactOf, h]

theorem busyEdge_ponWait_expired {s : State} (hs : s.st = .ponWait) (ht : s.tmr = 0) :
    busyEdge s = { quiet s with st := .aenWr } := by
  rw [busyEdge_ponWait hs, waitEdge, if_pos (by exact ht)]

theorem busyEdge_aenWait_expired {s : State} (hs : s.st = .aenWait) (ht : s.tmr = 0) :
    busyEdge s = attachDone (quiet s) := by
  rw [busyEdge_aenWait hs, waitEdge, if_pos (by exact ht)]

/-- A nonzero timer counts down, in either wait (41_lifecycle.md R190). -/
theorem step_countdown {s : State} (hl : legalParams s.cfg = true) (hr : s.input.rst = false)
    (hw : s.st.isWait = true) (ht : s.tmr ≠ 0) :
    step s = .next (State.advance { quiet s with tmr := s.tmr - 1 }) := by
  rw [step_busy hl hr (isIdle_of_isWait hw)]
  obtain h | h := isWait_iff.mp hw
  · rw [busyEdge_ponWait h, waitEdge, if_neg (by exact ht)]; rfl
  · rw [busyEdge_aenWait h, waitEdge, if_neg (by exact ht)]; rfl

/-- The end of the first settling wait. -/
theorem step_ponWait_expired {s : State} (hl : legalParams s.cfg = true) (hr : s.input.rst = false)
    (hs : s.st = .ponWait) (ht : s.tmr = 0) : step s = .next (State.advance { quiet s with st := .aenWr }) := by
  rw [step_busy hl hr (by rw [hs]; rfl), busyEdge_ponWait_expired hs ht]

/-- The end of the second settling wait, and of the ATTACH (41_lifecycle.md R189). -/
theorem step_aenWait_expired {s : State} (hl : legalParams s.cfg = true) (hr : s.input.rst = false)
    (hs : s.st = .aenWait) (ht : s.tmr = 0) : step s = .next (attachDone (quiet s)).advance := by
  rw [step_busy hl hr (by rw [hs]; rfl), busyEdge_aenWait_expired hs ht]

/-- Settles O28: a wait is neither an idle nor a transaction state, and its edge is `waitEdge`. -/
theorem waitArmCountsDownAndExits : Obligations.WaitArmCountsDownAndExits := by
  refine fun s hl hr => ⟨fun h => ?_, fun h ht => ?_, fun h ht => ?_, fun h ht => ?_⟩
  · have hw := isWait_iff.mpr h
    have ho : offeredXact s = none := by simp [offeredXact, xactOf_none (isXfer_of_isWait hw)]
    have hi := isIdle_of_isWait hw
    exact ⟨(outputs_xt_of_not_offered ho).1, by simp [reqReady, hi], by simp [smpReady, hi], by simp [lcReady, hi]⟩
  · exact step_countdown hl hr (isWait_iff.mpr h) ht
  · exact step_ponWait_expired hl hr h ht
  · exact step_aenWait_expired hl hr h ht

/-! ### A whole wait, at any pins -/

/-- The input pins after `n` edges are those that were `n` edges ahead. -/
theorem input_of_stateAfter {n : Nat} {s u : State} (h : stateAfter n s = some u) : u.input = s.inputAt n := by
  induction n generalizing s with
  | zero =>
    obtain rfl : s = u := Option.some.inj h
    exact (inputAt_zero s).symm
  | succ n ih =>
    cases hs : step s with
    | next v =>
      rw [stateAfter_succ n hs] at h
      obtain ⟨hscript, hedge⟩ := step_env hs
      rw [ih h, inputAt_of_tail hscript hedge]
    | fault r => simp [stateAfter, hs] at h
    | refused r => simp [stateAfter, hs] at h

/-- A run goes on with one more edge. -/
theorem Run.snoc {n : Nat} {s u v : State} {xs : List Xact} {rs : List XResult} (h : Run n s u xs rs)
    (hst : Machine.step u = .next v) :
    Run (n + 1) s v (xs ++ (acceptedXact u).toList) (rs ++ (consumedAnswer u).toList) := by
  simpa using h.trans (Run.step hst (Run.refl v))

/-- No answer is consumed in a state that performs no transaction. -/
theorem consumedAnswer_none {s : State} (hx : s.st.isXfer = false) : consumedAnswer s = none := by
  simp [consumedAnswer, outstanding, hx]

/-- An edge of a state that performs no transaction neither accepts nor completes one. -/
theorem Run.snoc_noXact {n : Nat} {s u v : State} {xs : List Xact} {rs : List XResult} (h : Run n s u xs rs)
    (hx : u.st.isXfer = false) (hst : Machine.step u = .next v) : Run (n + 1) s v xs rs := by
  simpa [acceptedXact_none (xactOf_none hx), consumedAnswer_none hx] using h.snoc hst

section
variable {s : State} (hl : legalParams s.cfg = true) (hw : s.st.isWait = true)
include hl hw

/-- At whatever pins without reset, a wait counts down as far as its timer goes. -/
theorem exists_run_countdown {k : Nat} (hk : k ≤ s.tmr.toNat) (hr : noReset k s) :
    ∃ u, Run k s u [] [] ∧ u.st = s.st ∧ u.cfg = s.cfg ∧ u.tmr.toNat = s.tmr.toNat - k := by
  induction k with
  | zero => exact ⟨s, Run.refl s, rfl, rfl, rfl⟩
  | succ k ih =>
    obtain ⟨u, hrun, hst, hcfg, htmr⟩ := ih (by omega) fun j hj => hr j (by omega)
    have hwu : u.st.isWait = true := by rw [hst]; exact hw
    have hru : u.input.rst = false := by rw [input_of_stateAfter hrun.after]; exact hr k (by omega)
    have hne : u.tmr ≠ 0 := fun h0 => by rw [h0] at htmr; simp at htmr; omega
    have hstep := step_countdown (s := u) (by rw [hcfg]; exact hl) hru hwu hne
    refine ⟨_, hrun.snoc_noXact (isXfer_of_isWait hwu) hstep, hst, hcfg, ?_⟩
    change (u.tmr - 1).toNat = _
    bv_omega

/-- At whatever pins without reset, a wait reaches a state from which it expires at the next edge. -/
theorem exists_run_to_expiry (hr : noReset (s.tmr.toNat + 1) s) :
    ∃ u, Run s.tmr.toNat s u [] [] ∧ u.st = s.st ∧ legalParams u.cfg = true ∧ u.input.rst = false ∧ u.tmr = 0 := by
  obtain ⟨u, hrun, hst, hcfg, htmr⟩ := exists_run_countdown hl hw (Nat.le_refl _) fun j hj => hr j (by omega)
  refine ⟨u, hrun, hst, by rw [hcfg]; exact hl, ?_, BitVec.eq_of_toNat_eq (by simpa using htmr)⟩
  rw [input_of_stateAfter hrun.after]
  exact hr _ (by omega)

end

/-- The rounded-up count and one more edge are longer than the delay (41_lifecycle.md R191). -/
theorem delay_lt_ticks_succ (ms fClkHz : Nat) : ms * fClkHz < 1000 * (ticksOfMs ms fClkHz + 1) := by
  have := le_ticksOfMs ms fClkHz
  omega

/-- Settles O50: the count down to zero, then the edge at which the wait expires. -/
theorem settlingWaitLastsItsCountPlusOne : Obligations.SettlingWaitLastsItsCountPlusOne := by
  intro s hl h hr
  have hw := isWait_iff.mpr h
  have hstays : ∀ k, k ≤ s.tmr.toNat → ∃ u, stateAfter k s = some u ∧ u.st = s.st := fun k hk => by
    obtain ⟨u, hrun, hst, -⟩ := exists_run_countdown hl hw hk fun j hj => hr j (by omega)
    exact ⟨u, hrun.after, hst⟩
  have hleaves : ∃ t, Run (s.tmr.toNat + 1) s t [] [] ∧
      (s.st = .ponWait → t.st = .aenWr) ∧ (s.st = .aenWait → t.st = .idleA ∧ t.rspValid = true) := by
    obtain ⟨u, hrun, hst, hlu, hru, htu⟩ := exists_run_to_expiry hl hw hr
    have hxu : u.st.isXfer = false := by rw [hst]; exact isXfer_of_isWait hw
    obtain h | h := h
    · have hstep := step_ponWait_expired hlu hru (hst.trans h) htu
      exact ⟨_, hrun.snoc_noXact hxu hstep, fun _ => rfl, by simp [h]⟩
    · have hstep := step_aenWait_expired hlu hru (hst.trans h) htu
      exact ⟨_, hrun.snoc_noXact hxu hstep, by simp [h], fun _ => ⟨rfl, rfl⟩⟩
  obtain ⟨t, hrun, hexit⟩ := hleaves
  exact ⟨hstays, ⟨t, hrun.after, hexit⟩, hrun.issues, delay_lt_ticks_succ _ _, delay_lt_ticks_succ _ _⟩

end Sys2Proof.Machine
end

section
/-! ATTACH and DETACH from their accept edge to their response, served by an adapter that takes any time (41_lifecycle.md
R181, R193, R201, R205): one run per phase, and the phases composed. -/

namespace Sys2Proof.Machine

/-! ### What a served transaction leaves in the sensor -/

/-- The sensor bytes after a transaction was accepted and answered (log entry 6). -/
def sensorAfter (x : Xact) (r : XResult) (m : Memory) : Memory := sensorFinish x r (sensorStart x m)

theorem read_sensorAfter_written (a : RegAddr) (v b : Byte) (m : Memory) :
    Memory.read (sensorAfter (.write a v) (.ok b) m) a.toNat = some v := read_write_same _ _ _

theorem read_sensorAfter_other {a : RegAddr} {k : Nat} (hk : k ≠ a.toNat) (v : Byte) (r : XResult) (m : Memory) :
    Memory.read (sensorAfter (.write a v) r m) k = Memory.read m k := by
  have hw : ∀ b w, Xact.write a v = .write b w → k ≠ b.toNat := fun b w e => by cases e; exact hk
  rw [sensorAfter, read_sensorFinish_other _ _ _ _ hw, read_sensorStart_other _ _ _ hw]

/-! ### The tick counts fit the timer -/

theorem toNat_ponTicks {p : Params} (hl : legalParams p = true) : (BitVec.ofNat 32 (ponTicks p)).toNat = ponTicks p := by
  obtain ⟨-, -, -, -, -, -, -, -, -, -, hle⟩ := (legalParams_iff p).mp hl
  rw [BitVec.toNat_ofNat]
  omega

theorem toNat_aenTicks {p : Params} (hl : legalParams p = true) : (BitVec.ofNat 32 (aenTicks p)).toNat = aenTicks p := by
  obtain ⟨-, -, -, -, -, -, -, -, -, hle, -⟩ := (legalParams_iff p).mp hl
  rw [BitVec.toNat_ofNat]
  omega

/-! ### The phases of an ATTACH -/

section
variable {s : State} {l : List EdgeIn} (hl : legalParams s.cfg = true) (hv : s.rspValid = false)
include hl hv

/-- A settling wait with nothing driven, to the edge at which it expires (41_lifecycle.md R190). -/
theorem run_wait {n : Nat} (hw : s.st.isWait = true) (hn : s.tmr.toNat = n)
    (h : s.script = List.replicate (n + 1) idlePins ++ l) :
    Run (n + 1) s (busyEdge { s with tmr := 0, script := idlePins :: l, edge := s.edge + n }).advance [] [] := by
  have hcount := run_countdown n (l := idlePins :: l) hl hw hv (by omega) (by rw [h, List.replicate_succ']; simp)
  rw [hn, Nat.sub_self] at hcount
  obtain ⟨hst, -, -⟩ := step_wait (s := { s with tmr := 0, script := idlePins :: l, edge := s.edge + n }) hl hw rfl
  exact hcount.snoc_noXact (isXfer_of_isWait hw) hst

variable (hq : s.xq = false)
include hq

/-- A served transaction, with the completion rule of its state (10_state.md R53). -/
theorem run_served (hold late : Nat) {r : XResult} {st : Fsm} {x : Xact} {done : XResult → State → State}
    (hs : s.st = st) (hx : xactOf s = some x)
    (hd : ∀ {r : XResult} {u : State}, u.st = st → completeXact r u = done r u) (h : s.script = serve hold late r ++ l) :
    Run (hold + late + 2) s
      (done r { s with sensor := sensorAfter x r s.sensor, script := l, edge := s.edge + (hold + late + 2) })
      [x] [r] := by
  rw [← hd (by exact hs)]
  exact run_serve hold late r hl hx hq hv h

/-- The identity read, answered with an accepted byte (41_lifecycle.md R182). -/
theorem run_identityRead (hold late : Nat) {b : Byte} (hs : s.st = .idRd) (hb : idAccepted b = true)
    (h : s.script = serve hold late (.ok b) ++ l) :
    Run (hold + late + 2) s { s with chipId := b, st := .ponWr, script := l, edge := s.edge + (hold + late + 2) }
      [.read s.cfg.aId] [.ok b] := by
  have hserve := run_served hl hv hq hold late hs (xactOf_idRd hs) completeXact_idRd h
  rwa [doneIdRd_accepted hb] at hserve

/-- The first enable write, answered with success, and its settling wait (41_lifecycle.md R184, R190). -/
theorem run_powerOn (hold late : Nat) {w : Byte} (hs : s.st = .ponWr)
    (h : s.script = serve hold late (.ok w) ++ (List.replicate (ponTicks s.cfg + 1) idlePins ++ l)) :
    Run (hold + late + 2 + (ponTicks s.cfg + 1)) s
      { s with pwr := .powered, tmr := 0, st := .aenWr, rspValid := false,
               sensor := sensorAfter (.write s.cfg.aEnable s.cfg.vPon) (.ok w) s.sensor,
               script := l, edge := s.edge + (hold + late + 2) + (ponTicks s.cfg + 1) }
      [.write s.cfg.aEnable s.cfg.vPon] [.ok w] := by
  have hserve := run_served hl hv hq hold late hs (xactOf_ponWr hs) completeXact_ponWr h
  have hrun := hserve.trans (run_wait (l := l) (by exact hl) (by exact hv) rfl (by exact toNat_ponTicks hl) rfl)
  rw [busyEdge_ponWait_expired rfl rfl] at hrun
  exact hrun

/-- The second enable write, answered with success, its settling wait and the response (41_lifecycle.md R186, R189). -/
theorem run_adcEnable (hold late : Nat) {w : Byte} (hs : s.st = .aenWr)
    (h : s.script = serve hold late (.ok w) ++ (List.replicate (aenTicks s.cfg + 1) idlePins ++ l)) :
    Run (hold + late + 2 + (aenTicks s.cfg + 1)) s
      (attachDone { s with pwr := .active, tmr := 0,
                           sensor := sensorAfter (.write s.cfg.aEnable (s.cfg.vPon ||| s.cfg.vAen)) (.ok w) s.sensor,
                           script := l, edge := s.edge + (hold + late + 2) + (aenTicks s.cfg + 1) })
      [.write s.cfg.aEnable (s.cfg.vPon ||| s.cfg.vAen)] [.ok w] := by
  have hserve := run_served hl hv hq hold late hs (xactOf_aenWr hs) completeXact_aenWr h
  have hrun := hserve.trans (run_wait (l := l) (by exact hl) (by exact hv) rfl (by exact toNat_aenTicks hl) rfl)
  rw [busyEdge_aenWait_expired rfl rfl] at hrun
  exact hrun

/-- From the first cycle of an ATTACH to its response in lifecycle ACTIVE (41_lifecycle.md R181). -/
theorem run_attach (hold1 late1 hold2 late2 hold3 late3 : Nat) {b w1 w2 : Byte} (hs : s.st = .idRd)
    (hb : idAccepted b = true)
    (h : s.script = serve hold1 late1 (.ok b) ++ (serve hold2 late2 (.ok w1) ++
      (List.replicate (ponTicks s.cfg + 1) idlePins ++ (serve hold3 late3 (.ok w2) ++
        (List.replicate (aenTicks s.cfg + 1) idlePins ++ l))))) :
    Run (hold1 + late1 + 2 + (hold2 + late2 + 2 + (ponTicks s.cfg + 1)) + (hold3 + late3 + 2 + (aenTicks s.cfg + 1))) s
      (attachDone { s with chipId := b, pwr := .active, tmr := 0,
                           sensor := sensorAfter (.write s.cfg.aEnable (s.cfg.vPon ||| s.cfg.vAen)) (.ok w2)
                             (sensorAfter (.write s.cfg.aEnable s.cfg.vPon) (.ok w1) s.sensor),
                           script := l,
                           edge := s.edge + (hold1 + late1 + 2) + (hold2 + late2 + 2) + (ponTicks s.cfg + 1) +
                             (hold3 + late3 + 2) + (aenTicks s.cfg + 1) })
      [.read s.cfg.aId, .write s.cfg.aEnable s.cfg.vPon, .write s.cfg.aEnable (s.cfg.vPon ||| s.cfg.vAen)]
      [.ok b, .ok w1, .ok w2] := by
  have hread := run_identityRead hl hv hq hold1 late1 hs hb h
  have hpon := hread.trans (run_powerOn (by exact hl) (by exact hv) (by exact hq) hold2 late2 rfl rfl)
  have haen := hpon.trans (run_adcEnable (by exact hl) rfl (by exact hq) hold3 late3 rfl rfl)
  exact haen

end

/-! ### The whole commands -/

/-- Settles O37: after the accept edge, the run of `run_attach`. -/
theorem attachCompletesInActive : Obligations.AttachCompletesInActive := by
  intro b w1 w2 h1 l1 h2 l2 h3 l3 rest s n hl hs hq hb hscript hn
  have hi : s.st.isIdle = true := by rw [hs]; rfl
  have hexec := exec_idle .attach s hi
  rw [acceptOf, acceptAttach_idleU hs] at hexec
  simp only [List.append_assoc] at hscript
  have hrun := run_attach (s := ({ quiet s with cport := .lc, st := .idRd } : State).advance) hl rfl hq h1 l1 h2 l2
    h3 l3 rfl (idAccepted_iff.mpr hb) (congrArg List.tail hscript)
  obtain rfl : n = h1 + l1 + 2 + (h2 + l2 + 2 + (ponTicks s.cfg + 1)) + (h3 + l3 + 2 + (aenTicks s.cfg + 1)) := by omega
  have hedge : s.edge + 1 + (h1 + l1 + 2) + (h2 + l2 + 2) + (ponTicks s.cfg + 1) + (h3 + l3 + 2) + (aenTicks s.cfg + 1) =
    s.edge + (h1 + l1 + 2 + (h2 + l2 + 2 + (ponTicks s.cfg + 1)) + (h3 + l3 + 2 + (aenTicks s.cfg + 1)) + 1) := by omega
  refine ⟨_, sensorAfter (.write s.cfg.aEnable (s.cfg.vPon ||| s.cfg.vAen)) (.ok w2)
    (sensorAfter (.write s.cfg.aEnable s.cfg.vPon) (.ok w1) s.sensor), hexec, ?_, hrun.issues,
    read_sensorAfter_written _ _ _ _, fun k hk => ?_⟩
  · rw [← hedge]; exact hrun.after
  · rw [read_sensorAfter_other hk, read_sensorAfter_other hk]

/-- Settles O38: the write is served, and either answer releases. -/
theorem detachCompletesWhateverItsWriteReturns : Obligations.DetachCompletesWhateverItsWriteReturns := by
  intro r hold late rest s hl hst hq hscript
  have hi : s.st.isIdle = true := by obtain h | ⟨h, -⟩ := hst <;> rw [h] <;> rfl
  have hexec := exec_idle .detach s hi
  rw [acceptOf, acceptDetach_writes hst] at hexec
  have hrun := run_served (s := ({ quiet s with cport := .lc, st := .tdWr } : State).advance) (l := rest)
    hl rfl hq hold late rfl (xactOf_tdWr rfl) completeXact_tdWr (congrArg List.tail hscript)
  have he : s.edge + 1 + (hold + late + 2) = s.edge + (hold + late + 3) := by omega
  refine ⟨_, sensorAfter (.write s.cfg.aEnable vOff) r s.sensor, hexec, ?_, hrun.issues, ?_,
    fun k hk => read_sensorAfter_other hk _ _ _⟩
  · rw [hrun.after, advance_edge, quiet_edge, he]
    cases r <;> rfl
  · rintro b rfl
    exact read_sensorAfter_written _ _ _ _

end Sys2Proof.Machine
end

section
/-! The order of an ATTACH's transactions (41_lifecycle.md R188): an invariant of the run from its first cycle on says,
for each FSM state, which transactions and answers lie behind it and how long ago the second answer came. -/

namespace Sys2Proof.Machine

/-! ### Facts about runs -/

theorem cfg_of_stateAfter {n : Nat} {s u : State} (h : stateAfter n s = some u) : u.cfg = s.cfg := by
  induction n generalizing s with
  | zero =>
    obtain rfl : s = u := Option.some.inj h
    rfl
  | succ n ih =>
    cases hs : step s with
    | next v =>
      rw [stateAfter_succ n hs] at h
      rw [ih h, step_cfg hs]
    | fault r => simp [stateAfter, hs] at h
    | refused r => simp [stateAfter, hs] at h

theorem length_consumed_le_succ (n : Nat) (s : State) : (consumed n s).length ≤ (consumed (n + 1) s).length := by
  induction n generalizing s with
  | zero => exact Nat.zero_le _
  | succ n ih =>
    cases hs : step s with
    | next v =>
      rw [consumed_succ n hs, consumed_succ (n + 1) hs, List.length_append, List.length_append]
      exact Nat.add_le_add_left (ih v) _
    | fault r => simp [consumed, hs]
    | refused r => simp [consumed, hs]

/-- A longer run has no fewer answers. -/
theorem length_consumed_mono (s : State) {m n : Nat} (h : m ≤ n) : (consumed m s).length ≤ (consumed n s).length := by
  induction h with
  | refl => exact Nat.le_refl _
  | @step n _ ih => exact Nat.le_trans ih (length_consumed_le_succ n s)

/-- After `n` edges from `s`, the second answer came at least `d` edges after every cycle that lacked it. -/
def AnsweredTwiceFor (s : State) (n d : Nat) : Prop := ∀ k, (consumed k s).length < 2 → k + d ≤ n

theorem AnsweredTwiceFor.start {s : State} {n : Nat} (h : (consumed (n + 1) s).length = 2) :
    AnsweredTwiceFor s (n + 1) 1 := by
  intro k hk
  refine Nat.succ_le_of_lt (Nat.lt_of_not_le fun hle => ?_)
  have hmono := length_consumed_mono s hle
  omega

theorem AnsweredTwiceFor.succ {s : State} {n d : Nat} (h : AnsweredTwiceFor s n d) :
    AnsweredTwiceFor s (n + 1) (d + 1) := fun k hk => by have := h k hk; omega

theorem AnsweredTwiceFor.weaken {s : State} {n d d' : Nat} (h : AnsweredTwiceFor s n d) (hd : d' ≤ d) :
    AnsweredTwiceFor s n d' := fun k hk => by have := h k hk; omega

/-! ### The edges of a transaction state -/

/-- An edge from `u` to `t` in the state that performs `x` and completes by `done` (10_state.md R53). -/
inductive HandshakeEdge (x : Xact) (done : XResult → State → State) (u t : State) : Prop
  | waits (ha : acceptedXact u = none) (hc : consumedAnswer u = none) (next : t = (quiet u).advance)
  | accepts (hq : u.xq = false) (ha : acceptedXact u = some x) (hc : consumedAnswer u = none)
      (next : t = (startXact x (quiet u)).advance)
  | completes (r : XResult) (m : Memory) (hq : u.xq = true) (ha : acceptedXact u = none)
      (hc : consumedAnswer u = some r) (next : t = (done r { quiet u with xq := false, sensor := m }).advance)

theorem step_handshakeEdge {u t : State} {st : Fsm} {x : Xact} {done : XResult → State → State}
    (hst : step u = .next t) (hr : u.input.rst = false) (hs : u.st = st) (hx : xactOf u = some x)
    (hd : ∀ {r : XResult} {v : State}, v.st = st → completeXact r v = done r v) : HandshakeEdge x done u t := by
  have hxf : u.st.isXfer = true := by rw [← xactOf_isSome, hx]; rfl
  rw [step_xfer (step_cases hst).1 hr hx, xferEdge] at hst
  cases hq : u.xq with
  | false =>
    have hc : consumedAnswer u = none := by simp [consumedAnswer, outstanding, hq]
    cases hn : u.input.xtReady with
    | false => exact .waits (by simp [acceptedXact, hn]) hc (by simpa [hq, hn] using hst.symm)
    | true =>
      exact .accepts hq (by simp [acceptedXact, offeredXact, hr, hq, hn, hx]) hc (by simpa [hq, hn] using hst.symm)
  | true =>
    have ha : acceptedXact u = none := by simp [acceptedXact, offeredXact, hq]
    cases hv : u.input.xrValid with
    | false => exact .waits ha (by simp [consumedAnswer, hv]) (by simpa [hq, hv] using hst.symm)
    | true =>
      refine .completes (resultOf u.input) (sensorFinish x (resultOf u.input) u.sensor) hq ha
        (by simp [consumedAnswer, outstanding, hr, hxf, hq, hv]) ?_
      rw [← finishXact_done x _ hs hd]
      simpa [hq, hv] using hst.symm

/-! ### The order of the transactions -/

/-- The three transactions of an ATTACH, in order (41_lifecycle.md R181). -/
abbrev attachXacts (p : Params) : List Xact :=
  [.read p.aId, .write p.aEnable p.vPon, .write p.aEnable (p.vPon ||| p.vAen)]

/-- What R188 says of the transactions `xs` and the answers `rs` of `n` edges from `s`. -/
structure AttachOrder (s : State) (n : Nat) (xs : List Xact) (rs : List XResult) : Prop where
  isPrefix : xs <+: attachXacts s.cfg
  identified : 2 ≤ xs.length → ∃ b rest, rs = .ok b :: rest ∧ idAccepted b = true
  powered : xs.length = 3 → ∃ b w rest, rs = .ok b :: .ok w :: rest
  settled : xs.length = 3 → AnsweredTwiceFor s n (ponTicks s.cfg + 3)

/-- An edge that issues nothing keeps the order. -/
theorem AttachOrder.succ {s : State} {n : Nat} {xs : List Xact} {rs : List XResult} (h : AttachOrder s n xs rs)
    (rs' : List XResult) : AttachOrder s (n + 1) xs (rs ++ rs') := by
  refine ⟨h.isPrefix, fun hx => ?_, fun hx => ?_, fun hx => (h.settled hx).succ.weaken (by omega)⟩
  · obtain ⟨b, rest, rfl, hb⟩ := h.identified hx
    exact ⟨b, rest ++ rs', rfl, hb⟩
  · obtain ⟨b, w, rest, rfl⟩ := h.powered hx
    exact ⟨b, w, rest ++ rs', rfl⟩

/-- The first `k` transactions of an ATTACH, and the next one once it is accepted in `u`. -/
abbrev issuedIn (s u : State) (k : Nat) : List Xact := (attachXacts s.cfg).take (k + u.xq.toNat)

/-- The state `u` of an ATTACH `n` edges after its first cycle `s`, with its transactions and answers so far. -/
inductive AttachStage (s : State) (n : Nat) (u : State) : List Xact → List XResult → Prop
  | identify (hs : u.st = .idRd) : AttachStage s n u (issuedIn s u 0) []
  | power {b : Byte} (hb : idAccepted b = true) (hs : u.st = .ponWr) :
      AttachStage s n u (issuedIn s u 1) [.ok b]
  | settle {b w : Byte} {d : Nat} (hb : idAccepted b = true) (hs : u.st = .ponWait) (hq : u.xq = false)
      (hd : AnsweredTwiceFor s n d) (ht : d + u.tmr.toNat = ponTicks s.cfg + 1) :
      AttachStage s n u ((attachXacts s.cfg).take 2) [.ok b, .ok w]
  | enable {b w : Byte} (hb : idAccepted b = true) (hs : u.st = .aenWr)
      (hd : AnsweredTwiceFor s n (ponTicks s.cfg + 2 + u.xq.toNat)) :
      AttachStage s n u (issuedIn s u 2) [.ok b, .ok w]
  | enabled {b w : Byte} {rs : List XResult} (hb : idAccepted b = true) (hs : u.st = .aenWait)
      (hd : AnsweredTwiceFor s n (ponTicks s.cfg + 3)) :
      AttachStage s n u (attachXacts s.cfg) (.ok b :: .ok w :: rs)
  | ended {xs : List Xact} {rs : List XResult} (hi : u.st.isIdle = true) (ho : AttachOrder s n xs rs) :
      AttachStage s n u xs rs

/-- The second enable write while it is only offered. -/
theorem AttachStage.enable_offered {s u : State} {n : Nat} {b w : Byte} (hb : idAccepted b = true) (hs : u.st = .aenWr)
    (hq : u.xq = false) (hd : AnsweredTwiceFor s n (ponTicks s.cfg + 2)) :
    AttachStage s n u ((attachXacts s.cfg).take 2) [.ok b, .ok w] := by
  have h : AttachStage s n u _ [.ok b, .ok w] := .enable hb hs (by rw [hq]; exact hd)
  rwa [issuedIn, hq] at h

theorem AttachStage.order {s u : State} {n : Nat} {xs : List Xact} {rs : List XResult} (h : AttachStage s n u xs rs) :
    AttachOrder s n xs rs := by
  cases h with
  | identify hs =>
    rw [issuedIn]
    cases u.xq <;> exact ⟨List.take_prefix _ _, nofun, nofun, nofun⟩
  | power hb hs =>
    rw [issuedIn]
    cases u.xq <;> exact ⟨List.take_prefix _ _, fun _ => ⟨_, _, rfl, hb⟩, nofun, nofun⟩
  | settle hb hs hq hd ht => exact ⟨List.take_prefix _ _, fun _ => ⟨_, _, rfl, hb⟩, nofun, nofun⟩
  | enable hb hs hd =>
    refine ⟨List.take_prefix _ _, fun _ => ⟨_, _, rfl, hb⟩, fun _ => ⟨_, _, _, rfl⟩, fun hx => ?_⟩
    cases hq : u.xq with
    | false => rw [issuedIn, hq] at hx; cases hx
    | true => rw [hq] at hd; exact hd
  | enabled hb hs hd =>
    exact ⟨List.prefix_rfl, fun _ => ⟨_, _, rfl, hb⟩, fun _ => ⟨_, _, _, rfl⟩, fun _ => hd⟩
  | ended hi ho => exact ho

/-! ### Each edge leads from stage to stage -/

section
variable {s u t : State} {n : Nat}

/-- An edge of a settling wait issues nothing and consumes no answer. -/
theorem AttachStage.of_noXact {xs : List Xact} {rs : List XResult} (hx : u.st.isXfer = false)
    (h : AttachStage s (n + 1) t xs rs) :
    AttachStage s (n + 1) t (xs ++ (acceptedXact u).toList) (rs ++ (consumedAnswer u).toList) := by
  simpa [acceptedXact_none (xactOf_none hx), consumedAnswer_none hx] using h

/-- An edge of a transaction state: the port waits, or the next transaction is accepted, or the state completes. -/
theorem AttachStage.next_of_handshake {k : Nat} {x : Xact} {done : XResult → State → State} {rs : List XResult}
    (h : AttachStage s n u (issuedIn s u k) rs) (hx : (attachXacts s.cfg)[k]? = some x)
    (he : HandshakeEdge x done u t) (hstays : t.st = u.st → AttachStage s (n + 1) t (issuedIn s t k) rs)
    (hdone : ∀ (r : XResult) (m : Memory), consumedAnswer u = some r →
      t = (done r { quiet u with xq := false, sensor := m }).advance →
      AttachOrder s (n + 1) ((attachXacts s.cfg).take (k + 1)) (rs ++ [r]) →
      AttachStage s (n + 1) t ((attachXacts s.cfg).take (k + 1)) (rs ++ [r])) :
    AttachStage s (n + 1) t (issuedIn s u k ++ (acceptedXact u).toList) (rs ++ (consumedAnswer u).toList) := by
  cases he with
  | waits ha hc ht =>
    subst ht
    simp only [ha, hc, Option.toList_none, List.append_nil]
    exact hstays rfl
  | accepts hq ha hc ht =>
    subst ht
    simp only [issuedIn, hq, ha, hc, ← hx, Bool.toNat_false, Nat.add_zero, ← List.take_add_one, Option.toList_none,
      List.append_nil]
    exact hstays rfl
  | completes r m hq ha hc ht =>
    have ho := h.order.succ [r]
    rw [issuedIn, hq] at ho
    rw [issuedIn, hq, ha, hc, Option.toList_none, List.append_nil]
    exact hdone r m hc ht ho

variable (hr : u.input.rst = false) (hst : step u = .next t)
include hr hst

theorem AttachStage.next_of_ponWait {b w : Byte} {d : Nat} (hb : idAccepted b = true) (hs : u.st = .ponWait)
    (hq : u.xq = false) (hd : AnsweredTwiceFor s n d) (ht : d + u.tmr.toNat = ponTicks s.cfg + 1) :
    AttachStage s (n + 1) t ((attachXacts s.cfg).take 2 ++ (acceptedXact u).toList)
      ([.ok b, .ok w] ++ (consumedAnswer u).toList) := by
  have hl := (step_cases hst).1
  refine .of_noXact (by rw [hs]; rfl) ?_
  by_cases h0 : u.tmr = 0
  · rw [step_ponWait_expired hl hr hs h0] at hst
    cases hst
    have hdone : ponTicks s.cfg + 2 ≤ d + 1 := by rw [h0] at ht; exact Nat.succ_le_succ (Nat.le_of_eq ht.symm)
    exact .enable_offered hb rfl hq (hd.succ.weaken hdone)
  · rw [step_countdown hl hr (by rw [hs]; rfl) h0] at hst
    cases hst
    have hleft : d + 1 + (u.tmr - 1).toNat = ponTicks s.cfg + 1 := by bv_omega
    exact .settle hb hs hq hd.succ hleft

theorem AttachStage.next_of_aenWait {b w : Byte} {rs : List XResult} (hb : idAccepted b = true) (hs : u.st = .aenWait)
    (hd : AnsweredTwiceFor s n (ponTicks s.cfg + 3)) :
    AttachStage s (n + 1) t (attachXacts s.cfg ++ (acceptedXact u).toList)
      (.ok b :: .ok w :: rs ++ (consumedAnswer u).toList) := by
  have hstage : AttachStage s n u (attachXacts s.cfg) (.ok b :: .ok w :: rs) := .enabled hb hs hd
  have hl := (step_cases hst).1
  have hx : u.st.isXfer = false := by rw [hs]; rfl
  by_cases h0 : u.tmr = 0
  · rw [step_aenWait_expired hl hr hs h0] at hst
    cases hst
    exact .of_noXact hx (.ended rfl (by simpa using hstage.order.succ []))
  · rw [step_countdown hl hr (by rw [hs]; rfl) h0] at hst
    cases hst
    exact .of_noXact hx (.enabled hb hs (hd.succ.weaken (Nat.le_succ _)))

variable (hcfg : u.cfg = s.cfg)
include hcfg

theorem AttachStage.next_of_idRd (hs : u.st = .idRd) :
    AttachStage s (n + 1) t (issuedIn s u 0 ++ (acceptedXact u).toList) ([] ++ (consumedAnswer u).toList) := by
  refine .next_of_handshake (.identify hs) (by rw [← hcfg]; rfl)
    (step_handshakeEdge hst hr hs (xactOf_idRd hs) completeXact_idRd) (fun h => .identify (h.trans hs))
    fun r m _ ht ho => ?_
  subst ht
  cases r with
  | err e => exact .ended rfl ho
  | ok b =>
    cases hb : idAccepted b with
    | true => rw [doneIdRd_accepted hb]; exact .power hb rfl
    | false => rw [doneIdRd_rejected hb]; exact .ended rfl ho

theorem AttachStage.next_of_ponWr (hl : legalParams s.cfg = true) {b : Byte} (hb : idAccepted b = true)
    (hs : u.st = .ponWr) (hrun : Run n s u (issuedIn s u 1) [.ok b]) :
    AttachStage s (n + 1) t (issuedIn s u 1 ++ (acceptedXact u).toList) ([.ok b] ++ (consumedAnswer u).toList) := by
  have hconsumes := (hrun.snoc hst).consumes
  refine .next_of_handshake (.power hb hs) (by rw [← hcfg]; rfl)
    (step_handshakeEdge hst hr hs (xactOf_ponWr hs) completeXact_ponWr) (fun h => .power hb (h.trans hs))
    fun r m hc ht ho => ?_
  subst ht
  cases r with
  | err e => exact .ended rfl ho
  | ok w =>
    have htwo : (consumed (n + 1) s).length = 2 := by rw [hconsumes, hc]; rfl
    have hticks : 1 + (BitVec.ofNat 32 (ponTicks u.cfg)).toNat = ponTicks s.cfg + 1 := by
      rw [hcfg, toNat_ponTicks hl, Nat.add_comm]
    exact .settle hb rfl rfl (.start htwo) hticks

theorem AttachStage.next_of_aenWr {b w : Byte} (hb : idAccepted b = true) (hs : u.st = .aenWr)
    (hd : AnsweredTwiceFor s n (ponTicks s.cfg + 2 + u.xq.toNat)) :
    AttachStage s (n + 1) t (issuedIn s u 2 ++ (acceptedXact u).toList)
      ([.ok b, .ok w] ++ (consumedAnswer u).toList) := by
  have hlater : AnsweredTwiceFor s (n + 1) (ponTicks s.cfg + 3) := hd.succ.weaken (by omega)
  refine .next_of_handshake (.enable hb hs hd) (by rw [← hcfg]; rfl)
    (step_handshakeEdge hst hr hs (xactOf_aenWr hs) completeXact_aenWr)
    (fun h => .enable hb (h.trans hs) (hlater.weaken (Nat.add_le_add_left t.xq.toNat_le _))) fun r m _ ht ho => ?_
  subst ht
  cases r with
  | err e => exact .ended rfl ho
  | ok w' => exact .enabled hb rfl hlater

/-- The invariant is kept by every edge of the run. -/
theorem AttachStage.next {xs : List Xact} {rs : List XResult} (h : AttachStage s n u xs rs)
    (hl : legalParams s.cfg = true) (hrun : Run n s u xs rs) (hi : u.st.isIdle = false) :
    AttachStage s (n + 1) t (xs ++ (acceptedXact u).toList) (rs ++ (consumedAnswer u).toList) := by
  cases h with
  | identify hs => exact next_of_idRd hr hst hcfg hs
  | power hb hs => exact next_of_ponWr hr hst hcfg hl hb hs hrun
  | settle hb hs hq hd ht => exact next_of_ponWait hr hst hb hs hq hd ht
  | enable hb hs hd => exact next_of_aenWr hr hst hcfg hb hs hd
  | enabled hb hs hd => exact next_of_aenWait hr hst hb hs hd
  | ended hidle ho => rw [hidle] at hi; cases hi

end

/-- The invariant holds from the first cycle of an ATTACH on, as long as it runs. -/
theorem exists_attachStage {s : State} (hl : legalParams s.cfg = true) (hs : s.st = .idRd) (hq : s.xq = false) {n : Nat}
    (hr : noReset n s) (hb : busyFor n s) :
    ∃ u, stateAfter n s = some u ∧ AttachStage s n u (issued n s) (consumed n s) := by
  induction n with
  | zero =>
    have hstage : AttachStage s 0 s _ [] := .identify hs
    rw [issuedIn, hq] at hstage
    exact ⟨s, rfl, hstage⟩
  | succ n ih =>
    obtain ⟨u, hafter, hstage⟩ := ih (fun k hk => hr k (by omega)) fun k hk => hb k (by omega)
    have hcfg := cfg_of_stateAfter hafter
    obtain ⟨t, hst⟩ := step_total (s := u) (by rw [hcfg]; exact hl)
    have hru : u.input.rst = false := by rw [input_of_stateAfter hafter]; exact hr n (by omega)
    have hrun : Run n s u _ _ := ⟨hafter, rfl, rfl⟩
    obtain ⟨hafter', hissues, hconsumes⟩ := hrun.snoc hst
    refine ⟨t, hafter', ?_⟩
    rw [hissues, hconsumes]
    exact hstage.next hru hst hcfg hl hrun (hb n (by omega) u hafter)

theorem attachOrder {s : State} (hl : legalParams s.cfg = true) (hs : s.st = .idRd) (hq : s.xq = false) {n : Nat}
    (hr : noReset n s) (hb : busyFor n s) : AttachOrder s n (issued n s) (consumed n s) := by
  obtain ⟨u, -, hstage⟩ := exists_attachStage hl hs hq hr hb
  exact hstage.order

/-- Settles O51: the order of the whole run, and for the settling delay that of its first `k + PON_TICKS + 2` edges. -/
theorem enableWritesComeInOrderAfterTheIdentity : Obligations.EnableWritesComeInOrderAfterTheIdentity := by
  intro n s hl hs hq hr hb
  have horder := attachOrder hl hs hq hr hb
  refine ⟨horder.isPrefix, fun h => ?_, horder.powered, fun k hk hc => ?_⟩
  · obtain ⟨b, rest, e, hid⟩ := horder.identified h
    exact ⟨b, rest, e, idAccepted_iff.mp hid⟩
  · have hfirst := attachOrder hl hs hq (n := k + ponTicks s.cfg + 2) (fun j hj => hr j (by omega))
      fun j hj => hb j (by omega)
    have hle : (issued (k + ponTicks s.cfg + 2) s).length ≤ 3 := hfirst.isPrefix.length_le
    refine Nat.lt_of_le_of_ne hle fun h3 => ?_
    have := hfirst.settled h3 k hc
    omega

end Sys2Proof.Machine
end

section
/-! The Sample Acquirer (42_sample.md R230 to R233): the accept rule, a sample served by an adapter that takes any time,
and the two ways a sample ends at transaction level. -/

namespace Sys2Proof.Machine

/-! ### The accept edge -/

theorem acceptSample_idleA {s : State} (h : s.st = .idleA) :
    acceptSample s = { quiet s with cport := .smp, ch := .clear, st := .rdLo } := if_pos h

/-- Outside ACTIVE SAMPLE is refused (42_sample.md R230). -/
theorem acceptSample_refused {s : State} (h : s.st ≠ .idleA) :
    acceptSample s = respond .smp .notReady 0x00 0 s := if_neg h

/-- Settles O18: the two cases of the accept rule, whether the block is in IDLE_A. -/
theorem sampleTransferFollowsTheAcceptRule : Obligations.SampleTransferFollowsTheAcceptRule := by
  refine fun s => ⟨fun h => ?_, fun h => ?_⟩
  · rw [exec_idle .sample s (by rw [h]; rfl), acceptOf, acceptSample_idleA h]
    rfl
  · have hi : s.st.isIdle = true := by obtain h | h := h <;> rw [h] <;> rfl
    have ha : s.st ≠ .idleA := by obtain h | h := h <;> simp [h]
    refine ⟨?_, acceptedXact_idle hi⟩
    rw [exec_idle .sample s hi, acceptOf, acceptSample_refused ha]
    rfl

/-! ### A sample served word by word -/

section
variable {s : State} {l : List EdgeIn} (hl : legalParams s.cfg = true) (hs : s.st = .rdLo) (hq : s.xq = false)
  (hv : s.rspValid = false) (hp : s.cport = .smp)
include hl hs hq hv hp

/-- A word below blue: the sample goes on to the next channel (40_word_reader.md R163). -/
theorem run_sampleWord_next (c : Channel) (t : WordTiming) (low high : Byte) (hc : s.ch = c) (hb : c ≠ .blue)
    (h : s.script = serveWord t low high ++ l) :
    Run t.edges s
      { s with lo := low, buf := s.buf.set c (wordOf high low), ch := c.next, st := .rdLo, script := l,
               edge := s.edge + t.edges }
      [.read (chanAddr s.cfg c), .read (highAddr (chanAddr s.cfg c))] [.ok low, .ok high] := by
  have hword := run_serveWord t low high hl hs hq hv h
  rw [continueWord_smp_next _ (by exact hp) (by simpa only [hc] using hb)] at hword
  simpa only [hc] using hword

/-- The blue word ends the sample with its response (42_sample.md R232). -/
theorem run_sampleWord_blue (t : WordTiming) (low high : Byte) (hc : s.ch = .blue)
    (h : s.script = serveWord t low high ++ l) :
    Run t.edges s
      (respond .smp .ok 0x00 (sampleData s.buf.clear s.buf.red s.buf.green (wordOf high low))
        { s with lo := low, buf := s.buf.set .blue (wordOf high low), st := .idleA, script := l,
                 edge := s.edge + t.edges })
      [.read (chanAddr s.cfg .blue), .read (highAddr (chanAddr s.cfg .blue))] [.ok low, .ok high] := by
  have hword := run_serveWord t low high hl hs hq hv h
  rw [continueWord_smp_blue (s := { s with lo := low, st := .rdHi, script := l, edge := s.edge + t.edges }) _
    hp hc] at hword
  simpa only [hc] using hword

/-- From the first cycle of a sample to its response: the four words in the order clear, red, green, blue
(42_sample.md R231). -/
theorem run_sample (t0 t1 t2 t3 : WordTiming) (l0 h0 l1 h1 l2 h2 l3 h3 : Byte) (hc : s.ch = .clear)
    (h : s.script = serveWord t0 l0 h0 ++ (serveWord t1 l1 h1 ++ (serveWord t2 l2 h2 ++ (serveWord t3 l3 h3 ++ l)))) :
    Run (t0.edges + t1.edges + t2.edges + t3.edges) s
      (respond .smp .ok 0x00 (sampleData (wordOf h0 l0) (wordOf h1 l1) (wordOf h2 l2) (wordOf h3 l3))
        { s with lo := l3, buf := ⟨wordOf h0 l0, wordOf h1 l1, wordOf h2 l2, wordOf h3 l3⟩, ch := .blue,
                 st := .idleA, script := l, edge := s.edge + t0.edges + t1.edges + t2.edges + t3.edges })
      (sampleReads s.cfg) [.ok l0, .ok h0, .ok l1, .ok h1, .ok l2, .ok h2, .ok l3, .ok h3] := by
  have hclear := run_sampleWord_next hl hs hq hv hp .clear t0 l0 h0 hc (by decide) h
  have hred := hclear.trans
    (run_sampleWord_next (by exact hl) rfl (by exact hq) (by exact hv) (by exact hp) .red t1 l1 h1 rfl (by decide) rfl)
  have hgreen := hred.trans
    (run_sampleWord_next (by exact hl) rfl (by exact hq) (by exact hv) (by exact hp) .green t2 l2 h2 rfl (by decide) rfl)
  exact hgreen.trans
    (run_sampleWord_blue (by exact hl) rfl (by exact hq) (by exact hv) (by exact hp) t3 l3 h3 rfl rfl)

end

/-- Settles O35: after the accept edge, the run of `run_sample`. -/
theorem sampleCompletesWithItsFourWords : Obligations.SampleCompletesWithItsFourWords := by
  intro l0 h0 l1 h1 l2 h2 l3 h3 t0 t1 t2 t3 rest s hl hs hq hscript
  have hexec := exec_idle .sample s (by rw [hs]; rfl)
  rw [acceptOf, acceptSample_idleA hs] at hexec
  simp only [List.append_assoc] at hscript
  have hrun := run_sample (s := ({ quiet s with cport := .smp, ch := .clear, st := .rdLo } : State).advance)
    hl rfl hq rfl rfl t0 t1 t2 t3 l0 h0 l1 h1 l2 h2 l3 h3 rfl (congrArg List.tail hscript)
  have hedge : s.edge + 1 + t0.edges + t1.edges + t2.edges + t3.edges =
    s.edge + (t0.edges + t1.edges + t2.edges + t3.edges + 1) := by omega
  refine ⟨_, hexec, ?_, hrun.issues⟩
  rw [hrun.after, advance_edge, quiet_edge, hedge, ← hs]
  rfl

/-! ### All or nothing, at transaction level -/

/-- The two ways a sample with `n` reads to go responds after the answers `rs`: with the four words of `buf` when all `n`
succeeded, or with the code of the last of them, which failed, and no data (42_sample.md R233). -/
abbrev CompletesOrFails (n : Nat) (rs : Answers) (v : State) : Prop :=
  ((∀ r ∈ rs, ∃ b, r = .ok b) ∧ rs.length = n ∧ v.rspStatus = .ok ∧ v.rspXerr = 0x00 ∧
    v.rspData = sampleData v.buf.clear v.buf.red v.buf.green v.buf.blue) ∨
  (∃ front err, rs = front ++ [.err err] ∧ (∀ r ∈ front, ∃ b, r = .ok b) ∧ front.length < n ∧
    v.rspStatus = .transport ∧ v.rspXerr = err ∧ v.rspData = 0)

/-- The pseudocode `k` performs the transactions `xs` in order until one fails, and responds in IDLE_A. -/
def AllOrNothing (xs : List Xact) (k : Answers → Option TxEnd) : Prop :=
  ∀ rs e, k rs = some e →
    e.issued = xs.take rs.length ∧ e.state.st = .idleA ∧ CompletesOrFails xs.length rs e.state

theorem ended_eq_some_iff {v : State} {rs : Answers} {e : TxEnd} : ended v rs = some e ↔ rs = [] ∧ e = ⟨v, []⟩ := by
  cases rs <;> simp [ended, eq_comm]

/-- With no read left, the command ends with the four words of `buf`. -/
theorem allOrNothing_ended {v : State} (hst : v.st = .idleA) (hok : v.rspStatus = .ok) (hx : v.rspXerr = 0x00)
    (hd : v.rspData = sampleData v.buf.clear v.buf.red v.buf.green v.buf.blue) : AllOrNothing [] (ended v) := by
  intro rs e h
  obtain ⟨rfl, rfl⟩ := ended_eq_some_iff.mp h
  exact ⟨rfl, hst, .inl ⟨by simp, rfl, hok, hx, hd⟩⟩

/-- One more successful answer before the others. -/
theorem CompletesOrFails.cons {n : Nat} {rs : Answers} {v : State} (h : CompletesOrFails n rs v) (b : Byte) :
    CompletesOrFails (n + 1) (.ok b :: rs) v := by
  obtain ⟨hall, rfl, hresp⟩ | ⟨front, err, rfl, hall, hlt, hresp⟩ := h
  · exact .inl ⟨by simpa using hall, rfl, hresp⟩
  · exact .inr ⟨.ok b :: front, err, rfl, by simpa using hall, Nat.succ_lt_succ hlt, hresp⟩

/-- A `MemRead` line that raises its error and otherwise goes on to the reads `xs`. -/
theorem AllOrNothing.memRead {a : RegAddr} {v : State} {xs : List Xact}
    {rest : XResult → State → Answers → Option TxEnd}
    (herr : ∀ err, rest (.err err) v = ended (raiseTransport v.cport err v))
    (hok : ∀ b, AllOrNothing xs (rest (.ok b) v)) : AllOrNothing (.read a :: xs) (memOp (.read a) v rest) := by
  intro rs e h
  cases rs with
  | nil => cases h
  | cons r rs =>
    obtain ⟨e', he', rfl⟩ := Option.map_eq_some_iff.mp h
    cases r with
    | err err =>
      obtain ⟨rfl, rfl⟩ := ended_eq_some_iff.mp ((congrFun (herr err) rs).symm.trans he')
      exact ⟨rfl, rfl, .inr ⟨[], err, rfl, by simp, Nat.succ_pos _, rfl, rfl, rfl⟩⟩
    | ok b =>
      obtain ⟨hissued, hidle, hend⟩ := hok b rs e' he'
      exact ⟨congrArg (Xact.read a :: ·) hissued, hidle, hend.cons b⟩

/-- A `WordRead(c)` line (40_word_reader.md R160). -/
theorem AllOrNothing.wordRead {c : Channel} {v : State} {xs : List Xact}
    {rest : Word → State → Answers → Option TxEnd}
    (h : ∀ low w, AllOrNothing xs (rest w (v.afterWord c low w))) :
    AllOrNothing (.read (chanAddr v.cfg c) :: .read (highAddr (chanAddr v.cfg c)) :: xs) (wordRead c v rest) :=
  .memRead (fun _ => rfl) fun low => .memRead (fun _ => rfl) fun high => h low (wordOf high low)

theorem allOrNothing_txSample {s : State} (hs : s.st = .idleA) : AllOrNothing (sampleReads s.cfg) (txSample s) := by
  unfold txSample
  rw [if_pos hs]
  exact .wordRead fun _ _ => .wordRead fun _ _ => .wordRead fun _ _ => .wordRead fun _ _ =>
    allOrNothing_ended hs rfl rfl rfl

/-- Settles O52: line by line of the pseudocode, with the reads still to come. -/
theorem sampleIsAllOrNothing : Obligations.SampleIsAllOrNothing := fun _ rs e hs h => allOrNothing_txSample hs rs e h

end Sys2Proof.Machine
end

section
/-! The Configuration Port (43_config.md R250 to R253): the accept edge of its two commands, the answer to the write, and
the whole command served by an adapter that takes any time. -/

namespace Sys2Proof.Machine

/-! ### The answer to the write -/

theorem xactOf_cfgWr {s : State} (h : s.st = .cfgWr) : xactOf s = some (.write (cfgAddr s.cfg s.cop) s.carg) := by
  simp [xactOf, h]

theorem completeXact_cfgWr {r : XResult} {s : State} (h : s.st = .cfgWr) : completeXact r s = doneCfgWr r s := by
  rw [completeXact, h]

/-- Settles O32, by the answer to the write; the address of the statement is `cfgAddr` written out. -/
theorem configWriteCompletion : Obligations.ConfigWriteCompletion := by
  rintro s _ h rfl
  have hx := xactOf_cfgWr h.inState
  have hstep := h.step_done hx completeXact_cfgWr
  exact ⟨hx, fun hok => ⟨_, by rw [hstep, resultOf_ok hok]; rfl⟩,
    fun herr => ⟨_, by rw [hstep, resultOf_err herr]; rfl⟩⟩

/-! ### The whole commands -/

theorem acceptConfig_idleA {s : State} (op arg : Byte) (h : s.st = .idleA) :
    acceptConfig op arg s = { quiet s with cport := .req, cop := op, carg := arg, st := .cfgWr } := if_pos h

/-- Both commands are one configuration write; their op codes choose the register (43_config.md R252, R253). -/
theorem acceptOf_config {i : Instr} {op arg : Byte} {a : RegAddr} {s : State}
    (h : (i = .setgain arg ∧ op = 0x05 ∧ a = s.cfg.aControl) ∨ (i = .setatime arg ∧ op = 0x06 ∧ a = s.cfg.aAtime)) :
    acceptOf i s = acceptConfig op arg s ∧ cfgAddr s.cfg op = a := by
  obtain ⟨rfl, rfl, rfl⟩ | ⟨rfl, rfl, rfl⟩ := h <;> exact ⟨rfl, rfl⟩

/-- A configuration write from its first cycle, served with success, to its response (43_config.md R250, R251). -/
theorem run_configWrite {s : State} {l : List EdgeIn} (hl : legalParams s.cfg = true) (hv : s.rspValid = false)
    (hq : s.xq = false) (hold late : Nat) {b : Byte} (hs : s.st = .cfgWr)
    (h : s.script = serve hold late (.ok b) ++ l) :
    Run (hold + late + 2) s
      (respond .req .ok 0x00 0
        { s with st := .idleA, sensor := sensorAfter (.write (cfgAddr s.cfg s.cop) s.carg) (.ok b) s.sensor,
                 script := l, edge := s.edge + (hold + late + 2) })
      [.write (cfgAddr s.cfg s.cop) s.carg] [.ok b] :=
  run_served hl hv hq hold late hs (xactOf_cfgWr hs) completeXact_cfgWr h

/-- Settles O36: after the accept edge, the run of `run_configWrite`. -/
theorem configWritesComplete : Obligations.ConfigWritesComplete := by
  intro i op a arg b hold late rest s hi hl hs hq hscript
  obtain ⟨haccept, rfl⟩ := acceptOf_config hi
  have hexec := exec_idle i s (by rw [hs]; rfl)
  rw [haccept, acceptConfig_idleA op arg hs] at hexec
  have hrun := run_configWrite
    (s := ({ quiet s with cport := .req, cop := op, carg := arg, st := .cfgWr } : State).advance) (l := rest)
    hl rfl hq hold late rfl (congrArg List.tail hscript)
  have hedge : s.edge + 1 + (hold + late + 2) = s.edge + (hold + late + 3) := by omega
  refine ⟨_, _, sensorAfter (.write (cfgAddr s.cfg op) arg) (.ok b) s.sensor, hexec, hrun.after, ?_, hrun.issues,
    read_sensorAfter_written _ _ _ _, fun k hk => read_sensorAfter_other hk _ _ _⟩
  rw [advance_edge, quiet_edge, hedge, ← hs]
  rfl

end Sys2Proof.Machine
end

section
/-! The Request Interface (44_request.md R270 to R278): the accept rule of the REQ port, the answer to INVALID_OP, a channel
read served by an adapter that takes any time, and the handle that no REQ or SMP command touches. -/

namespace Sys2Proof.Machine

/-! ### What a REQ word decodes to -/

theorem toNat_readOp (c : Channel) : (readOp c).toNat = c.code.toNat + 1 := by
  cases c <;> rfl

/-- The valid op codes are the four channel reads and the two configuration writes (30_encoding.md R122). -/
theorem readOp_or_config {op : Byte} (h1 : 1 ≤ op.toNat) (h6 : op.toNat ≤ 6) :
    (∃ c, op = readOp c) ∨ op = 0x05 ∨ op = 0x06 := by
  have h : op = readOp .clear ∨ op = readOp .red ∨ op = readOp .green ∨ op = readOp .blue ∨ op = 0x05 ∨ op = 0x06 := by
    simp only [readOp]
    bv_omega
  obtain h | h | h | h | h := h
  · exact .inl ⟨_, h⟩
  · exact .inl ⟨_, h⟩
  · exact .inl ⟨_, h⟩
  · exact .inl ⟨_, h⟩
  · exact .inr h

theorem acceptOf_readInstr (c : Channel) (arg : Byte) : acceptOf (readInstr c arg) = acceptRead c (readOp c) arg := by
  cases c <;> rfl

theorem decodeReq_read {w : Word} {c : Channel} (h : reqOp w = readOp c) : decodeReq w = readInstr c (reqArg w) := by
  cases c <;> rw [decodeReq, h] <;> rfl

theorem acceptOf_decodeReq_read {w : Word} {c : Channel} (h : reqOp w = readOp c) :
    acceptOf (decodeReq w) = acceptRead c (reqOp w) (reqArg w) := by
  rw [decodeReq_read h, acceptOf_readInstr, h]

theorem acceptOf_decodeReq_config {w : Word} (h : reqOp w = 0x05 ∨ reqOp w = 0x06) :
    acceptOf (decodeReq w) = acceptConfig (reqOp w) (reqArg w) := by
  obtain h | h := h <;> rw [decodeReq, h] <;> rfl

/-! ### The accept edge -/

theorem acceptRead_idleA {s : State} (c : Channel) (op arg : Byte) (h : s.st = .idleA) :
    acceptRead c op arg s = { quiet s with cport := .req, cop := op, carg := arg, ch := c, st := .rdLo } := if_pos h

/-- Outside ACTIVE a valid REQ op is refused (44_request.md R271). -/
theorem acceptReq_refused {s : State} (op arg : Byte) (start : State → State) (h : s.st ≠ .idleA) :
    acceptReq op arg start s = respond .req .notReady 0x00 0 s := if_neg h

theorem acceptOf_decodeReq_refused {w : Word} {s : State} (h1 : 1 ≤ (reqOp w).toNat) (h6 : (reqOp w).toNat ≤ 6)
    (hs : s.st ≠ .idleA) : acceptOf (decodeReq w) s = respond .req .notReady 0x00 0 s := by
  obtain ⟨c, h⟩ | h := readOp_or_config h1 h6
  · rw [acceptOf_decodeReq_read h, acceptRead, acceptReq_refused _ _ _ hs]
  · rw [acceptOf_decodeReq_config h, acceptConfig, acceptReq_refused _ _ _ hs]

/-- Settles O16: the op code decides between INVALID_OP, a channel read and a configuration write, and the state between
taking a valid command and refusing it. -/
theorem reqTransferFollowsTheAcceptRule : Obligations.ReqTransferFollowsTheAcceptRule := by
  intro w s hi
  rw [decode, exec_idle (decodeReq w) s hi, ← toNat_reqOp]
  refine ⟨fun h => ?_, fun h1 h6 hs => ?_, fun c hc hs => ?_, fun h hs => ?_⟩
  · rw [decodeReq_of_not_validOp ((validOp_eq_false_iff _).mpr h)]
    rfl
  · rw [acceptOf_decodeReq_refused h1 h6 hs]
    rfl
  · have hop : reqOp w = readOp c := BitVec.eq_of_toNat_eq (hc.trans (toNat_readOp c).symm)
    rw [acceptOf_decodeReq_read hop, acceptRead_idleA _ _ _ hs]
    rfl
  · have hop : reqOp w = 0x05 ∨ reqOp w = 0x06 := h.imp BitVec.eq_of_toNat_eq BitVec.eq_of_toNat_eq
    rw [acceptOf_decodeReq_config hop, acceptConfig_idleA _ _ hs]
    rfl

/-- Settles O17: the accept rule of INVALID_OP is its response, and an idle state issues no transaction. -/
theorem invalidOpIsAnsweredAtOnce : Obligations.InvalidOpIsAnsweredAtOnce :=
  fun op arg s _ hi => ⟨exec_idle (.invalidOp op arg) s hi, acceptedXact_idle hi⟩

/-! ### A channel read, whole -/

/-- A channel read from its first cycle, served with success, to its response (44_request.md R277). -/
theorem run_channelRead {s : State} {l : List EdgeIn} (t : WordTiming) (low high : Byte)
    (hl : legalParams s.cfg = true) (hs : s.st = .rdLo) (hq : s.xq = false) (hv : s.rspValid = false)
    (hp : s.cport = .req) (h : s.script = serveWord t low high ++ l) :
    Run t.edges s
      (respond .req .ok 0x00 (zext64 (wordOf high low))
        { s with lo := low, buf := s.buf.set s.ch (wordOf high low), st := .idleA, script := l,
                 edge := s.edge + t.edges })
      [.read (chanAddr s.cfg s.ch), .read (highAddr (chanAddr s.cfg s.ch))] [.ok low, .ok high] := by
  have hword := run_serveWord t low high hl hs hq hv h
  rwa [continueWord_req _ (by exact hp)] at hword

/-- Settles O34: after the accept edge, the run of `run_channelRead`. -/
theorem channelReadsCompleteWithTheirWord : Obligations.ChannelReadsCompleteWithTheirWord := by
  intro c arg low high t rest s hl hs hq hscript
  have hexec := exec_idle (readInstr c arg) s (by rw [hs]; rfl)
  rw [acceptOf_readInstr, acceptRead_idleA _ _ _ hs] at hexec
  have hrun := run_channelRead
    (s := ({ quiet s with cport := .req, cop := readOp c, carg := arg, ch := c, st := .rdLo } : State).advance)
    t low high hl rfl hq rfl rfl (congrArg List.tail hscript)
  have hedge : s.edge + 1 + t.edges = s.edge + (t.edges + 1) := by omega
  refine ⟨_, hexec, ?_, hrun.issues, rfl⟩
  rw [hrun.after, advance_edge, quiet_edge, hedge, ← hs]
  rfl

/-! ### The handle during REQ and SMP commands -/

/-- The handle registers and the lifecycle state have kept their values (44_request.md R278). -/
structure KeepsHandle (s t : State) : Prop extends KeepsStatus s t where
  fxerr : t.fxerr = s.fxerr
  chipId : t.chipId = s.chipId
  lifecycle : lifecycleOf t = lifecycleOf s

theorem KeepsHandle.advance {s t : State} (h : KeepsHandle s t) : KeepsHandle s t.advance :=
  let ⟨⟨hp, hf⟩, hx, hc, hl⟩ := h; ⟨⟨hp, hf⟩, hx, hc, hl⟩

theorem quiet_keepsHandle (s : State) : KeepsHandle s (quiet s) := ⟨⟨rfl, rfl⟩, rfl, rfl, rfl⟩

/-- The states of a REQ or SMP command in progress. -/
def Serving (st : Fsm) : Prop := st = .rdLo ∨ st = .rdHi ∨ st = .cfgWr

theorem Serving.isIdle {st : Fsm} (h : Serving st) : st.isIdle = false := by
  obtain rfl | rfl | rfl := h <;> rfl

theorem Serving.isXfer {st : Fsm} (h : Serving st) : st.isXfer = true := by
  obtain rfl | rfl | rfl := h <;> rfl

theorem lifecycleOf_serving {s : State} (h : Serving s.st) : lifecycleOf s = .active := by
  obtain h | h | h := h <;> rw [lifecycleOf, h] <;> rfl

theorem lifecycleOf_idleA {s : State} (h : s.st = .idleA) : lifecycleOf s = .active := by
  rw [lifecycleOf, h]; rfl

/-- A completion edge of a REQ or SMP command goes on with it or ends it in ACTIVE (60_exceptions.md R301). -/
theorem completeXact_st_of_serving (r : XResult) {s : State} (h : Serving s.st) :
    Serving (completeXact r s).st ∨ (completeXact r s).st = .idleA := by
  rw [completeXact_st]
  obtain h | h | h := h <;> rw [h] <;> cases r
  case inr.inl.ok b =>
    change Serving (if s.cport = .smp ∧ s.ch ≠ .blue then .rdLo else .idleA) ∨ _
    split
    · exact .inl (.inl rfl)
    · exact .inr rfl
  case inl.ok b => exact .inl (.inr (.inl rfl))
  all_goals exact .inr rfl

theorem completeXact_keepsHandle (r : XResult) {s : State} (h : Serving s.st) : KeepsHandle s (completeXact r s) where
  pwr := by rw [completeXact_pwr]; obtain h | h | h := h <;> rw [h]
  fail := by rw [completeXact_fail]; obtain h | h | h := h <;> rw [h]
  fxerr := by rw [completeXact_fxerr]; obtain h | h | h := h <;> rw [h]
  chipId := by rw [completeXact_chipId]; obtain h | h | h := h <;> rw [h]
  lifecycle := by
    rw [lifecycleOf_serving h]
    obtain hs | hs := completeXact_st_of_serving r h
    · exact lifecycleOf_serving hs
    · exact lifecycleOf_idleA hs

/-- The handshake of a REQ or SMP command's transaction, and its completion, keep the handle. -/
theorem busyEdge_keepsHandle {s : State} (h : Serving s.st) : KeepsHandle s (busyEdge s) := by
  obtain ⟨x, -, -, ⟨-, -, e⟩ | ⟨-, -, e⟩ | ⟨-, -, e⟩ | ⟨-, -, e⟩⟩ | ⟨-, hx, -⟩ := busyEdge_cases s h.isIdle
  · rw [e]; exact quiet_keepsHandle s
  · rw [e]; exact ⟨⟨rfl, rfl⟩, rfl, rfl, rfl⟩
  · rw [e]; exact quiet_keepsHandle s
  · rw [e]
    obtain ⟨⟨hp, hf⟩, hxe, hc, hlc⟩ := completeXact_keepsHandle (resultOf s.input)
      (s := { quiet s with xq := false, sensor := sensorFinish x (resultOf s.input) s.sensor }) h
    exact ⟨⟨hp, hf⟩, hxe, hc, hlc⟩
  · rw [h.isXfer] at hx; cases hx

theorem decodeReq_ne_detach (w : Word) : decodeReq w ≠ .detach := fun h => by
  have hw := encode_decodeReq w
  rw [h] at hw
  cases hw

theorem offeredCommand_ne_detach {e : EdgeIn} (h : e.reqValid = true ∨ e.smpValid = true) :
    offeredCommand e ≠ some .detach := by
  cases hr : e.reqValid with
  | true =>
    rw [offeredCommand_req hr]
    exact fun hd => decodeReq_ne_detach _ (Option.some.inj hd)
  | false =>
    have hs : e.smpValid = true := h.resolve_left (by simp [hr])
    rw [offeredCommand_smp hr hs]
    nofun

theorem acceptOf_keepsHandle {i : Instr} {s : State} (hi : s.st.isIdle = true) (hd : i ≠ .detach) :
    KeepsHandle s (acceptOf i s) := by
  obtain ⟨-, -, hp, -⟩ := acceptOf_frame i s
  obtain ⟨hf, hx, hc, hlc⟩ := acceptOf_handle i s hd
  exact ⟨⟨hp, hf⟩, hx, hc, hlc hi⟩

/-- Settles O46, by the four kinds of edge of `step_cases`: a busy edge is one of a REQ or SMP command, and a taken command
is not DETACH. -/
theorem requestsLeaveTheHandleAlone : Obligations.RequestsLeaveTheHandleAlone := by
  intro s t h hr hc
  suffices hk : KeepsHandle s t from ⟨hk.pwr, hk.fail, hk.fxerr, hk.chipId, hk.lifecycle⟩
  obtain ⟨-, ⟨hr', -⟩ | ⟨-, hi, rfl⟩ | ⟨-, -, -, rfl⟩ | ⟨i, -, hi, ho, rfl⟩⟩ := step_cases h
  · rw [hr] at hr'; cases hr'
  · have hs : Serving s.st := by
      obtain ⟨hi', -⟩ | hs := hc
      · rw [hi] at hi'; cases hi'
      · exact hs
    exact (busyEdge_keepsHandle hs).advance
  · exact (quiet_keepsHandle s).advance
  · have hv : s.input.reqValid = true ∨ s.input.smpValid = true := by
      obtain ⟨-, hv⟩ | hs := hc
      · exact hv
      · rw [Serving.isIdle hs] at hi; cases hi
    have hd : i ≠ .detach := fun e => offeredCommand_ne_detach hv (e ▸ ho)
    exact (acceptOf_keepsHandle hi hd).advance

end Sys2Proof.Machine
end

section
/-! The settle timer (60_exceptions.md R320) and the commands held by their ports (60_exceptions.md R335, 10_state.md R51). -/

namespace Sys2Proof.Machine

/-! ### The settle timer -/

/-- `tmr` after an edge without reset that consumes the answer `a`, if any (60_exceptions.md R320). -/
def timerAfter (s : State) (a : Option XResult) : Ticks :=
  match s.st, a with
  | .ponWr, some (.ok _) => BitVec.ofNat 32 (ponTicks s.cfg)
  | .aenWr, some (.ok _) => BitVec.ofNat 32 (aenTicks s.cfg)
  | .ponWait, _ => if s.tmr = 0 then 0 else s.tmr - 1
  | .aenWait, _ => if s.tmr = 0 then 0 else s.tmr - 1
  | _, _ => s.tmr

/-- Outside the waits an edge that consumes no answer keeps the timer. -/
theorem timerAfter_none {s : State} (hw : s.st.isWait = false) : timerAfter s none = s.tmr := by
  unfold timerAfter
  cases hs : s.st
  case ponWait => rw [hs] at hw; cases hw
  case aenWait => rw [hs] at hw; cases hw
  all_goals rfl

theorem timerAfter_wait {s : State} (a : Option XResult) (hw : s.st.isWait = true) :
    timerAfter s a = if s.tmr = 0 then 0 else s.tmr - 1 := by
  unfold timerAfter
  obtain hs | hs := isWait_iff.mp hw <;> rw [hs]

theorem isWait_of_isIdle {st : Fsm} (h : st.isIdle = true) : st.isWait = false :=
  Bool.eq_false_iff.mpr fun hw => by rw [isIdle_of_isWait hw] at h; cases h

theorem isWait_of_isXfer {st : Fsm} (h : st.isXfer = true) : st.isWait = false :=
  Bool.eq_false_iff.mpr fun hw => by rw [isXfer_of_isWait hw] at h; cases h

theorem isWait_of_isUnused {st : Fsm} (h : st.isUnused = true) : st.isWait = false := by
  revert h; cases st <;> simp [Fsm.isUnused, Fsm.isWait]

theorem finishXact_tmr (x : Xact) (r : XResult) {s : State} (hx : s.st.isXfer = true) :
    (finishXact x r (quiet s)).tmr = timerAfter s (some r) := by
  have hw := isWait_of_isXfer hx
  unfold finishXact timerAfter
  rw [completeXact_tmr]
  simp only [quiet_st, quiet_tmr, quiet_cfg]
  cases hs : s.st
  case ponWait => rw [hs] at hw; cases hw
  case aenWait => rw [hs] at hw; cases hw
  all_goals cases r <;> rfl

/-- A wait counts down to 0 and stays there, when its end does not write the timer. -/
theorem waitEdge_tmr {expired : State → State} {s : State} (he : (expired s).tmr = s.tmr) :
    (waitEdge expired s).tmr = if s.tmr = 0 then 0 else s.tmr - 1 := by
  unfold waitEdge
  split
  · next h0 => rw [he, h0]
  · rfl

theorem busyEdge_tmr {s : State} (hr : s.input.rst = false) (hi : s.st.isIdle = false) :
    (busyEdge s).tmr = timerAfter s (consumedAnswer s) := by
  obtain ⟨x, -, hx, hh⟩ | ⟨-, hx, hw⟩ := busyEdge_cases s hi
  · have hkept : timerAfter s none = s.tmr := timerAfter_none (isWait_of_isXfer hx)
    obtain ⟨hq, -, e⟩ | ⟨hq, -, e⟩ | ⟨-, hv, e⟩ | ⟨hq, hv, e⟩ := hh <;> rw [e]
    · rw [show consumedAnswer s = none by simp [consumedAnswer, outstanding, hq], hkept]; rfl
    · rw [show consumedAnswer s = none by simp [consumedAnswer, outstanding, hq], hkept]; rfl
    · rw [show consumedAnswer s = none by simp [consumedAnswer, hv], hkept]; rfl
    · rw [show consumedAnswer s = some (resultOf s.input) by simp [consumedAnswer, outstanding, hr, hx, hq, hv]]
      exact finishXact_tmr x _ hx
  · rw [consumedAnswer_none hx]
    obtain ⟨hs, e⟩ | ⟨hs, e⟩ | ⟨hu, e⟩ := hw <;> rw [e]
    · rw [timerAfter_wait _ (isWait_iff.mpr (.inl hs))]; exact waitEdge_tmr rfl
    · rw [timerAfter_wait _ (isWait_iff.mpr (.inr hs))]; exact waitEdge_tmr rfl
    · exact (timerAfter_none (isWait_of_isUnused hu)).symm

/-- An edge in an idle state keeps the timer. -/
theorem timerAfter_idle {s : State} (hi : s.st.isIdle = true) : timerAfter s (consumedAnswer s) = s.tmr := by
  rw [consumedAnswer_idle hi, timerAfter_none (isWait_of_isIdle hi)]

theorem step_tmr {s t : State} (h : step s = .next t) (hr : s.input.rst = false) :
    t.tmr = timerAfter s (consumedAnswer s) := by
  obtain ⟨-, ⟨hr', -⟩ | ⟨-, hi, rfl⟩ | ⟨-, hi, -, rfl⟩ | ⟨i, -, hi, -, rfl⟩⟩ := step_cases h
  · rw [hr] at hr'; cases hr'
  · exact busyEdge_tmr hr hi
  · exact (timerAfter_idle hi).symm
  · obtain ⟨-, -, -, ht, -⟩ := acceptOf_frame i s
    rw [timerAfter_idle hi]; exact ht

/-- Settles O48, from `step_tmr`: `timerAfter` is the statement's table. -/
theorem timerIsLoadedByEnableWritesOnly : Obligations.TimerIsLoadedByEnableWritesOnly :=
  fun _ _ h hr => step_tmr h hr

/-! ### Held commands -/

theorem heldFor.of_succ {valid ready : State → Bool} {n : Nat} {s : State} (h : heldFor valid ready (n + 1) s) :
    heldFor valid ready n s := fun k hk => h k (Nat.lt_succ_of_lt hk)

/-- While a port holds a command, what the host's duty keeps between two edges is kept along them all. -/
theorem heldFor.keeps {α : Type} {valid ready : State → Bool} {payload : State → α}
    (hduty : ∀ u v, hostDuty u v → valid u = true → ready u = false → valid v = true → payload v = payload u)
    {n : Nat} {s t : State} (h : heldFor valid ready n s) (hv : valid s = true) (ht : stateAfter n s = some t) :
    valid t = true ∧ payload t = payload s := by
  induction n generalizing t with
  | zero =>
    obtain rfl : s = t := Option.some.inj ht
    exact ⟨hv, rfl⟩
  | succ n ih =>
    obtain ⟨u, v, hu, hv', hvu, hru, hvv, hd⟩ := h n n.lt_succ_self
    obtain rfl : v = t := Option.some.inj (hv'.symm.trans ht)
    obtain ⟨-, hp⟩ := ih h.of_succ hu
    exact ⟨hvv, (hduty u v hd hvu hru hvv).trans hp⟩

/-- Settles O55, by `heldFor.keeps` at each port: the payload at the edge that takes the command is the first one, and a
port is ready only when no port before it offers. -/
theorem heldCommandIsTakenAsFirstOffered : Obligations.HeldCommandIsTakenAsFirstOffered := by
  refine fun n s t ht hl => ⟨fun hh hv hready => ?_, fun hh hv hready => ?_⟩
  · obtain ⟨hvt, hw⟩ := hh.keeps (payload := fun u => u.input.reqWord) (fun _ _ hd => hd.1) hv ht
    obtain ⟨hr, -⟩ : t.input.rst = false ∧ t.st.isIdle = true := by simpa [reqReady] using hready
    rw [← hw]
    exact step_offered hl hr (offeredCommand_req hvt)
  · obtain ⟨hvt, hop⟩ := hh.keeps (payload := fun u => u.input.lcOp) (fun _ _ hd => hd.2) hv ht
    obtain ⟨⟨⟨hr, -⟩, hreq⟩, hsmp⟩ : ((t.input.rst = false ∧ t.st.isIdle = true) ∧ t.input.reqValid = false) ∧
      t.input.smpValid = false := by simpa [lcReady] using hready
    rw [← hop]
    exact step_offered hl hr (offeredCommand_lc hreq hsmp hvt)

end Sys2Proof.Machine
end

section
/-! The reset edge (70_reset_and_hazards.md R340, R342): the registers it loads, and the ports in the cycle before it. -/

namespace Sys2Proof.Machine

theorem offeredXact_reset {s : State} (hr : s.input.rst = true) : offeredXact s = none := by
  simp [offeredXact, hr]

/-- What is not offered is not accepted, whatever `xt_ready` is. -/
theorem acceptedXact_of_not_offered {s : State} (h : offeredXact s = none) : acceptedXact s = none := by
  unfold acceptedXact
  rw [h, ite_self]

theorem consumedAnswer_reset {s : State} (hr : s.input.rst = true) : consumedAnswer s = none := by
  simp [consumedAnswer, hr]

/-- Settles O12: the edge is `step_reset`, whose `resetEdge` loads the reset values of 10_state.md R33 over all but the
parameters, the sensor bytes and the environment, and in the cycle before it no port is ready (R51)
and no transaction is offered. -/
theorem resetEdgeLoadsEveryRegister : Obligations.ResetEdgeLoadsEveryRegister := by
  intro s hl hr
  obtain ⟨hreq, hsmp, hlc⟩ := (commandsAreTakenOnlyInIdleInPortOrder s).1 hr
  have hx : offeredXact s = none := offeredXact_reset hr
  obtain ⟨hvalid, -⟩ := outputs_xt_of_not_offered hx
  exact ⟨step_reset hl hr, hreq, hsmp, hlc, hvalid, acceptedXact_of_not_offered hx, consumedAnswer_reset hr⟩

end Sys2Proof.Machine
end
